-- ==== Sys2Proof/Word.lean ====
section
/-! DEFINITION. The word types of CORE: every register and every BUF word is 32 bits (R9 XLEN, R35). -/

namespace Sys2Proof

/-- A register, a BUF word, a binary32 pattern (R9, R63). -/
abbrev Word := BitVec 32

/-- One byte of a BUF word, as R64 maps words to bytes. -/
abbrev Byte := BitVec 8

end Sys2Proof
end

