-- ==== Sys2Proof/Syntax.lean ====
section
/-! DEFINITION. What is written down for CORE: its eight commands (R93), the one command format C (R90), and the
statements of a host script (R7, R96). -/

namespace Sys2Proof

/-- The eight commands of R93, in the order of spec/opcode_table.json. A command names no operand (R94). -/
inductive Instr where
  /-- CONV.MEAN, 0x00000001 (R166). -/
  | convMean
  /-- CONV.SX, 0x00000011 (R167). -/
  | convSx
  /-- CONV.SY, 0x00000021 (R168). -/
  | convSy
  /-- CONV.USR, 0x00000031 (R169). -/
  | convUsr
  /-- RENORM, 0x00000002 (R191). -/
  | renorm
  /-- MAGF, 0x00000003 (R192). -/
  | magf
  /-- MAGX, 0x00000004 (R193). -/
  | magx
  /-- NMS, 0x00000005 (R218). -/
  | nms
deriving DecidableEq, Repr

/-- The fields of a command word (R90): ZERO = bits 31:6, KSEL = bits 5:4, OP = bits 3:0. -/
structure FormatC where
  zero : BitVec 26
  ksel : BitVec 2
  op : BitVec 4
deriving DecidableEq, Repr

/-- The two agents that take steps (R8). -/
inductive Agent where
  | host
  | engine
deriving DecidableEq, Repr

/-- One statement of a host script: the host operations of R7, the `wait` of R96, and the `wait` of the EDGE
pseudo-instructions (R241). `bits` is the width of the access, `o` a byte offset in the register block, `a` a word
address in BUF; ill-formed accesses can be written down, and R65 says what CORE does with them. -/
inductive Stmt where
  /-- `rd`: HostReadReg(o). -/
  | readReg (bits o : Nat)
  /-- `wr`: HostWriteReg(o, v). -/
  | writeReg (bits o : Nat) (v : Word)
  /-- `rb`: HostReadBuf(a). -/
  | readBuf (bits a : Nat)
  /-- `wb`: HostWriteBuf(a, v). -/
  | writeBuf (bits a : Nat) (v : Word)
  /-- `wait`: repeat `rd STATUS` until BUSY = 0. -/
  | wait
  /-- A `wait` after which, if STATUS.FAULT = 1, the host skips the next `rest` statements (R241: "the host stops"). -/
  | waitOrStop (rest : Nat)
  /-- HardwareReset (R301). -/
  | hardwareReset
deriving DecidableEq, Repr

end Sys2Proof
end

