-- ==== Sys2Proof/WellFormed.lean ====
section
/-! DEFINITION. When a command word's fields and a host statement are well formed. -/

namespace Sys2Proof

/-- R90: bits 31:6 must be 0. -/
def FormatC.zeroOk (f : FormatC) : Bool := f.zero == 0

/-- R91: OP is one of 0x1 to 0x5. -/
def FormatC.opOk (f : FormatC) : Bool := decide (1 ≤ f.op.toNat) && decide (f.op.toNat ≤ 5)

/-- R90: KSEL must be 0 for every OP but 1. -/
def FormatC.kselOk (f : FormatC) : Bool := f.op == 1 || f.ksel == 0

/-- The fields of a legal command word (R93). -/
def FormatC.wf (f : FormatC) : Bool := f.zeroOk && f.opOk && f.kselOk

/-- A command names no operand (R94), so every `Instr` is well formed; what can be ill formed is a word
(`FormatC.wf`) or a host access (`Stmt.wf`). -/
def Instr.wf (_ : Instr) : Bool := true

/-- R65: a register access is a whole word at an offset that is a multiple of 4 below 256. -/
def regAccessOk (bits o : Nat) : Bool := decide (bits = 32) && decide (o % 4 = 0) && decide (o < 256)

/-- R65: a BUF access is a whole word below BUF_WORDS. -/
def bufAccessOk (bufWords bits a : Nat) : Bool := decide (bits = 32) && decide (a < bufWords)

/-- Premise HP5 (R305) of one host statement, on a platform with `bufWords` words of BUF. -/
def Stmt.wf (bufWords : Nat) : Stmt → Bool
  | .readReg bits o => regAccessOk bits o
  | .writeReg bits o _ => regAccessOk bits o
  | .readBuf bits a => bufAccessOk bufWords bits a
  | .writeBuf bits a _ => bufAccessOk bufWords bits a
  | .wait => true
  | .waitOrStop _ => true
  | .hardwareReset => true

end Sys2Proof
end

