-- ==== Sys2Proof/Decode.lean ====
section
/-! DEFINITION. Decoding a command word (R93), the encoder beside it, and the host's view of the opcode table. -/

namespace Sys2Proof

/-- Why a word is no command (R93: OP = 0 or 0x6..0xF; KSEL not 0 with OP not 1; a bit of 31:6 set). -/
inductive Illegal where
  | zeroField
  | reservedOp
  | kselNotZero
deriving DecidableEq, Repr

/-- The answer of `decode` (R93: Decode is total). -/
inductive Decoded where
  | command (i : Instr)
  | illegal (why : Illegal)
deriving DecidableEq, Repr

def Decoded.toOption : Decoded → Option Instr
  | .command i => some i
  | .illegal _ => none

/-- The three fields of a word (R90). -/
def formatOf (w : Word) : FormatC :=
  { zero := w.extractLsb 31 6, ksel := w.extractLsb 5 4, op := w.extractLsb 3 0 }

/-- The kernel select of OP = 1 (R92): 0 MEAN, 1 SX, 2 SY, 3 USR. -/
def convOfKsel (ksel : BitVec 2) : Instr :=
  if ksel = 0 then .convMean else if ksel = 1 then .convSx else if ksel = 2 then .convSy else .convUsr

/-- A command whose KSEL must be 0 (R93). -/
def plainCommand (ksel : BitVec 2) (i : Instr) : Decoded :=
  if ksel = 0 then .command i else .illegal .kselNotZero

/-- `Decode` of R93. -/
def decode (w : Word) : Decoded :=
  let f := formatOf w
  if f.zero ≠ 0 then .illegal .zeroField
  else if f.op = 1 then .command (convOfKsel f.ksel)
  else if f.op = 2 then plainCommand f.ksel .renorm
  else if f.op = 3 then plainCommand f.ksel .magf
  else if f.op = 4 then plainCommand f.ksel .magx
  else if f.op = 5 then plainCommand f.ksel .nms
  else .illegal .reservedOp

/-- The fields of each command (R91, R92, R93). -/
def fieldsOf : Instr → FormatC
  | .convMean => ⟨0, 0, 1⟩
  | .convSx => ⟨0, 1, 1⟩
  | .convSy => ⟨0, 2, 1⟩
  | .convUsr => ⟨0, 3, 1⟩
  | .renorm => ⟨0, 0, 2⟩
  | .magf => ⟨0, 0, 3⟩
  | .magx => ⟨0, 0, 4⟩
  | .nms => ⟨0, 0, 5⟩

/-- The word with these fields (R90: ZERO high, then KSEL, then OP). -/
def packFormat (f : FormatC) : Word := f.zero ++ f.ksel ++ f.op

/-- The command word of R93. -/
def encode (i : Instr) : Word := packFormat (fieldsOf i)

/-- The word of `nbits` bits that spec/opcode_table.json numbers `w`; none where it has a bit above bit 31 (a command
is one 32-bit word, R90). -/
def tableWord (nbits w : Nat) : Option Word :=
  if w % 2 ^ nbits < 2 ^ 32 then some (BitVec.ofNat 32 (w % 2 ^ nbits)) else none

/-- The instruction the decoder reads from the table's word `w` of `nbits` bits. -/
def decodeTableWord (nbits w : Nat) : Option Instr :=
  match tableWord nbits w with
  | some v => (decode v).toOption
  | none => none

end Sys2Proof
end

