-- ==== Sys2Proof/Config.lean ====
section
/-! DEFINITION. What the platform fixes (R9, R67): the size of BUF. It is OPEN in the spec, so the machine takes it
from `Machine.State.bufWords`; only the value it has in `Machine.State.reset` is chosen here. -/

namespace Sys2Proof

/-- BUF_WORDS in `Machine.State.reset`. DESIGN CHOICE, unsafe (log 4): R9 leaves it open between 1 and 2^32; this is
the value the spec's own test vectors use. -/
def Config.resetBufWords : Nat := 65536

end Sys2Proof
end

