-- ==== Sys2Proof/Machine/State.lean ====
section
/-! DEFINITION. The state of CORE (R20), the reasons a step of the model can stop, and the state after hardware
reset (R39, R301). -/

namespace Sys2Proof.Machine

/-- Why a step of the MODEL stops. None of these is a fault of CORE: CORE's five faults (R260) are next states. -/
inductive Fault where
  /-- The engine read BUF word `addr`, which nothing has written since hardware reset. Raised by every command's
  engine step; R74: "treat a read of an undefined word as a fault of the model". Safe (log 6). -/
  | undefinedWord (addr : Nat)
  /-- The engine was to read or write word `addr` outside BUF. R61: the engine never does; only states no run reaches
  answer so. Safe (log 11). -/
  | noSuchWord (addr : Int)
  /-- BUSY with an L_OP, L_KSEL that are no command's. Only states no run reaches answer so. Safe (log 11). -/
  | snapshotNoCommand
deriving DecidableEq, Repr

/-- What the model gives no move. -/
inductive Refusal where
  /-- The instruction has no meaning in `exec`. No arm answers so. Safe. -/
  | notModelled (mnemonic : String)
  /-- Premise HP1 (R72 (a), R305): while BUSY the host writes word `addr` of a used source range. The spec gives this
  no move (U6: "refuse is an acceptable modelling"). Raised by a host `wb`. Safe (log 8). -/
  | hostWritesLiveSource (addr : Nat)
  /-- Premise HP2 (R72 (b), R305): while BUSY the host writes word `addr` of the destination range. Raised by a host
  `wb`. Safe (log 8). -/
  | hostWritesLiveDestination (addr : Nat)
deriving DecidableEq, Repr

/-- The mode `ST` (R32). -/
inductive Mode where
  | idle
  | busy
  | faulted
deriving DecidableEq, Repr

/-- The operand snapshot (R33). -/
structure Snapshot where
  op : BitVec 4
  ksel : BitVec 2
  w : BitVec 16
  h : BitVec 16
  n : Word
  src0 : Word
  src1 : Word
  src2 : Word
  dst : Word
  k : Vector Word 9
deriving DecidableEq, Repr

/-- BUF: the byte at each byte address that holds one, addresses strictly rising. BUF word `a` is the four bytes at
4a to 4a+3, little-endian (R64; log 5). An address not listed has no value (R74; log 6). -/
abbrev Memory := List Host.Cell

/-- The canonical form: addresses strictly rise. An unlisted address reads as no value, so no listed byte can equal
what an unlisted one reads as. -/
def Memory.wf : Memory → Bool
  | [] => true
  | c :: m => (match m with | [] => true | d :: _ => decide (c.1 < d.1)) && Memory.wf m

/-- What a host read answered, as the script notes it (R96). -/
inductive Reply where
  /-- The word read. -/
  | value (v : Word)
  /-- A word came back that the spec does not define (R72 (c), R74; log 7). -/
  | unspecified
  /-- The access was refused (R65): no value. -/
  | refused
deriving DecidableEq, Repr

/-- The state: (a) the register block, (b) the mode, (c) the snapshot, (d) the scan index, (e) BUF (R20), and the
model's own `bufWords`, `script`, `sched` and `noted` (INVENTORY.md). STATUS.BUSY and STATUS.FAULT are read off `st`
(R24). -/
structure State where
  /-- CTRL bit 1 (R23). -/
  ieDone : Bool
  /-- CTRL bit 2 (R23). -/
  ieFault : Bool
  /-- STATUS bit 1 (R24). -/
  done : Bool
  /-- STATUS bit 3 (R24). -/
  werr : Bool
  /-- STATUS bits 15:8 (R24). -/
  fcode : BitVec 8
  /-- CMD (R25). -/
  cmd : Word
  /-- WIDTH bits 15:0 (R26). -/
  width : BitVec 16
  /-- HEIGHT bits 15:0 (R27). -/
  height : BitVec 16
  /-- SRC0 (R28). -/
  src0 : Word
  /-- SRC1 (R28). -/
  src1 : Word
  /-- SRC2 (R28). -/
  src2 : Word
  /-- DST (R28). -/
  dst : Word
  /-- FINFO (R29). -/
  finfo : Word
  /-- KREG0 to KREG8 (R30). -/
  kreg : Vector Word 9
  /-- ST (R32). -/
  st : Mode
  /-- The operand snapshot (R33). -/
  snap : Snapshot
  /-- IDX (R34). -/
  idx : Word
  /-- BUF (R35). -/
  buf : Memory
  /-- The parameter BUF_WORDS (R9, R40): no step changes it (log 4). -/
  bufWords : Nat
  /-- The host's statements still to run (R96; log 3). -/
  script : List Stmt
  /-- The agents' coming turns (R71; log 2). -/
  sched : List Agent
  /-- What host reads answered, latest first (R96). -/
  noted : List Reply
deriving DecidableEq, Repr

/-- The snapshot after reset: all zero (R33, R39). -/
def Snapshot.reset : Snapshot :=
  { op := 0, ksel := 0, w := 0, h := 0, n := 0, src0 := 0, src1 := 0, src2 := 0, dst := 0, k := Vector.replicate 9 0 }

/-- The machine right after hardware reset (R39, R301), no host script loaded (log 3). -/
def State.reset : State :=
  { ieDone := false, ieFault := false, done := false, werr := false, fcode := 0, cmd := 0, width := 0, height := 0,
    src0 := 0, src1 := 0, src2 := 0, dst := 0, finfo := 0, kreg := Vector.replicate 9 0, st := .idle,
    snap := Snapshot.reset, idx := 0, buf := [], bufWords := Config.resetBufWords, script := [], sched := [], noted := [] }

end Sys2Proof.Machine
end

