-- ==== Sys2Proof/Machine/Ops.lean ====
section
/-! DEFINITION. The named operations over BUF and the registers: byte and word access, fault entry (R267) and the way
back from it (R269: the two resets, R301, R302), the refused command write (R38), the host's notes and turns. -/

namespace Sys2Proof.Machine

/-! ## BUF -/

/-- The byte at a byte address, if it has a value. -/
def readByte : Memory → Nat → Option Byte
  | [], _ => none
  | c :: m, a => if c.1 = a then some c.2 else readByte m a

/-- Sets the byte at one address, in canonical form. -/
def writeByte : Memory → Nat → Byte → Memory
  | [], a, b => [(a, b)]
  | c :: m, a, b =>
    if a < c.1 then (a, b) :: c :: m
    else if a = c.1 then (a, b) :: m
    else c :: writeByte m a b

/-- `BUF[a]`: the bytes 4a to 4a+3, the lowest address in bits 7:0 (R64). None where the word has no defined value
(R74). -/
def readWord (m : Memory) (a : Nat) : Option Word :=
  match readByte m (4 * a), readByte m (4 * a + 1), readByte m (4 * a + 2), readByte m (4 * a + 3) with
  | some b0, some b1, some b2, some b3 => some (b3 ++ b2 ++ b1 ++ b0)
  | _, _, _, _ => none

/-- `BUF[a] <- v` (R61), bytes as in `readWord`. -/
def writeWord (m : Memory) (a : Nat) (v : Word) : Memory :=
  writeByte (writeByte (writeByte (writeByte m (4 * a) (v.extractLsb 7 0)) (4 * a + 1) (v.extractLsb 15 8))
    (4 * a + 2) (v.extractLsb 23 16)) (4 * a + 3) (v.extractLsb 31 24)

/-- `MemRead(addr, 1)` of the engine (R61). The address is an unbounded integer (R61, R133). -/
def engineRead (s : State) (addr : Int) : Except Fault Word :=
  if addr < 0 ∨ (s.bufWords : Int) ≤ addr then .error (.noSuchWord addr)
  else
    match readWord s.buf addr.toNat with
    | some v => .ok v
    | none => .error (.undefinedWord addr.toNat)

/-! ## Taking a fault, and leaving one -/

/-- CORE's five faults (R260). -/
inductive CoreFault where
  | illCmd
  | dim
  | range
  | overlap
  | nmsOob
deriving DecidableEq, Repr

/-- FCODE of each fault (R260). -/
def CoreFault.code : CoreFault → BitVec 8
  | .illCmd => 0x01
  | .dim => 0x02
  | .range => 0x03
  | .overlap => 0x04
  | .nmsOob => 0x05

/-- Fault entry, `raise F(info)` (R267): ST, STATUS.BUSY, STATUS.FAULT, FCODE and FINFO change, nothing else. BUSY and
FAULT follow `st` (R24). -/
def raise (f : CoreFault) (info : Word) (s : State) : State :=
  { s with st := .faulted, fcode := f.code, finfo := info }

/-- Soft reset (R302): everything of R301 but BUF. With hardware reset the only way out of FAULTED (R269). -/
def softReset (s : State) : State :=
  { s with
    ieDone := false, ieFault := false, done := false, werr := false, fcode := 0, cmd := 0, width := 0, height := 0,
    src0 := 0, src1 := 0, src2 := 0, dst := 0, finfo := 0, kreg := Vector.replicate 9 0, st := .idle,
    snap := Snapshot.reset, idx := 0 }

/-- Hardware reset (R301): soft reset, and every word of BUF unspecified. The host's script goes on. -/
def hardwareReset (s : State) : State :=
  { softReset s with buf := [] }

/-- A refused write of CMD (R38, R270): STATUS.WERR <- 1 and nothing else. -/
def refuseCommand (s : State) : State :=
  { s with werr := true }

/-! ## The host's side -/

/-- The script notes a reply (R96). -/
def note (r : Reply) (s : State) : State :=
  { s with noted := r :: s.noted }

/-- Which agent moves next (R71): the head of `sched`; when it is empty, the engine while it is enabled (R273), which is
R311's weak fairness, and the host otherwise (log 2). -/
def nextAgent (s : State) : Agent :=
  match s.sched with
  | a :: _ => a
  | [] => if s.st = .busy then .engine else .host

/-- The turn at the head of `sched` is used up. -/
def popTurn (s : State) : State :=
  { s with sched := s.sched.tail }

end Sys2Proof.Machine
end

