-- ==== Sys2Proof/Machine/Operands.lean ====
section
/-! DEFINITION. Every operand form: the kernel ROM (R31), the sources a command uses (R94), buffer ranges (R68), the
snapshot (R33), image coordinates (R13), the convolution's position classes and taps (R161 to R163), and the NMS
buckets' neighbour offsets (R214). -/

namespace Sys2Proof.Machine

/-! ## Kernels -/

/-- Row-major: element [a][b] is word 3a + b (R95). -/
def romMean : Vector Word 9 := Vector.replicate 9 0x3F800000

def romSobelX : Vector Word 9 :=
  #v[0xBF800000, 0x00000000, 0x3F800000, 0xC0000000, 0x00000000, 0x40000000, 0xBF800000, 0x00000000, 0x3F800000]

def romSobelY : Vector Word 9 :=
  #v[0x3F800000, 0x40000000, 0x3F800000, 0x00000000, 0x00000000, 0x00000000, 0xBF800000, 0xC0000000, 0xBF800000]

/-- What L_K holds after the issue of `i` (R33): the ROM kernel, or KREG, or for a command that is no convolution what
it held before. -/
def kernelFor (i : Instr) (s : State) : Vector Word 9 :=
  match i with
  | .convMean => romMean
  | .convSx => romSobelX
  | .convSy => romSobelY
  | .convUsr => s.kreg
  | .renorm => s.snap.k
  | .magf => s.snap.k
  | .magx => s.snap.k
  | .nms => s.snap.k

/-- `K[a][b]` of the latched kernel (R160). -/
def kernelAt (k : Vector Word 9) (a b : Nat) : Word := k.toList.getD (3 * a + b) 0

/-! ## Sources and ranges -/

/-- The three source registers (R28). -/
inductive Src where
  | src0
  | src1
  | src2
deriving DecidableEq, Repr

/-- The number FINFO records for a source (R260). -/
def Src.number : Src → Word
  | .src0 => 0
  | .src1 => 1
  | .src2 => 2

/-- `UsedSources(cmd)`, in the order SRC0, SRC1, SRC2 (R94). -/
def usedSources : Instr → List Src
  | .convMean => [.src0]
  | .convSx => [.src0]
  | .convSy => [.src0]
  | .convUsr => [.src0]
  | .renorm => [.src0]
  | .magf => [.src0, .src1]
  | .magx => [.src0, .src1]
  | .nms => [.src0, .src1, .src2]

/-- The source register's word (R28). -/
def srcReg (s : State) : Src → Word
  | .src0 => s.src0
  | .src1 => s.src1
  | .src2 => s.src2

/-- The latched source base (R33). -/
def latchedSrc (p : Snapshot) : Src → Word
  | .src0 => p.src0
  | .src1 => p.src1
  | .src2 => p.src2

/-- `InBuf(B, N)` (R68), in unbounded integers. -/
def inBuf (bufWords base n : Nat) : Bool := decide (base + n ≤ bufWords)

/-- `Overlap(B1, B2, N)` (R68), in unbounded integers. -/
def overlaps (b1 b2 n : Nat) : Bool := decide (b1 < b2 + n) && decide (b2 < b1 + n)

/-- Word address `a` lies in `Range(B, N)` (R68). -/
def inRange (base n a : Nat) : Bool := decide (base ≤ a) && decide (a < base + n)

/-- The command the snapshot holds: L_KSEL and L_OP are CMD[5:4] and CMD[3:0] (R33). -/
def latched (s : State) : Decoded := decode (packFormat { zero := 0, ksel := s.snap.ksel, op := s.snap.op })

/-- Word address `a` is in the destination range of the running command (R72). -/
def inLiveDestination (s : State) (a : Nat) : Bool :=
  s.st == .busy && inRange s.snap.dst.toNat s.snap.n.toNat a

/-- Word address `a` is in a used source range of the running command (R72). -/
def inLiveSource (s : State) (a : Nat) : Bool :=
  s.st == .busy &&
    match latched s with
    | .command i => (usedSources i).any fun k => inRange (latchedSrc s.snap k).toNat s.snap.n.toNat a
    | .illegal _ => false

/-! ## Pixels -/

/-- Row of a pixel index (R13). -/
def rowOf (w i : Nat) : Nat := i / w

/-- Column of a pixel index (R13). -/
def colOf (w i : Nat) : Nat := i % w

/-- The nine position classes (R161). -/
inductive PosClass where
  | tl
  | tr
  | bl
  | br
  | t
  | b
  | l
  | r
  | i
deriving DecidableEq, Repr

/-- The class of the pixel at row `r`, column `c` of a w x h image (R161). -/
def classOf (w h r c : Nat) : PosClass :=
  if r = 0 then (if c = 0 then .tl else if c + 1 = w then .tr else .t)
  else if r + 1 = h then (if c = 0 then .bl else if c + 1 = w then .br else .b)
  else if c = 0 then .l
  else if c + 1 = w then .r
  else .i

/-- The kernel rows a class keeps (R162). -/
def rowsKept : PosClass → List Nat
  | .i => [0, 1, 2]
  | .tl => [1, 2]
  | .tr => [1, 2]
  | .bl => [0, 1]
  | .br => [0, 1]
  | .t => [1, 2]
  | .b => [0, 1]
  | .l => [0, 1, 2]
  | .r => [0, 1, 2]

/-- The kernel columns a class keeps (R162). -/
def colsKept : PosClass → List Nat
  | .i => [0, 1, 2]
  | .tl => [1, 2]
  | .tr => [0, 1]
  | .bl => [1, 2]
  | .br => [0, 1]
  | .t => [0, 1, 2]
  | .b => [0, 1, 2]
  | .l => [1, 2]
  | .r => [0, 1]

/-- `Taps(class)`, in the order in which they are summed (R162). -/
def taps (c : PosClass) : List (Nat × Nat) :=
  (rowsKept c).flatMap fun a => (colsKept c).map fun b => (a, b)

/-- The index of the neighbour a tap meets, `i + (a-1)*W + (b-1)`, unbounded (R133, R163). -/
def neighbour (w i : Nat) (tap : Nat × Nat) : Int :=
  (i : Int) + ((tap.1 : Int) - 1) * w + ((tap.2 : Int) - 1)

/-! ## NMS -/

/-- The four direction buckets (R213). -/
inductive Bucket where
  | z
  | p
  | n
  | h
deriving DecidableEq, Repr

/-- `NMS_OFFSETS` (R214). -/
def nmsOffsets (w : Nat) : Bucket → Int × Int
  | .z => (-(w : Int), -(w : Int) + 1)
  | .p => (-(w : Int) + 1, (w : Int) - 1)
  | .n => (-(w : Int) - 1, (w : Int) + 1)
  | .h => (-1, 1)

end Sys2Proof.Machine
end

