-- ==== Sys2Proof/Machine/Command.lean ====
section
/-! DEFINITION. The two atomic steps every command has: its issue (R272) and its engine step (R273), shared by the eight
meanings. -/

namespace Sys2Proof.Machine

/-! ## Issue -/

/-- `(H << 16) or W`, the FINFO of F_DIM (R262). -/
def dimInfo (s : State) : Word := s.height ++ s.width

/-- The checks of an issue after decoding, in the order of R266: dimensions (R262), ranges (R263), overlap (R264); the
first that fails with its FINFO, or none. -/
def issueCheck (i : Instr) (s : State) : Option (CoreFault × Word) :=
  let w := s.width.toNat
  let h := s.height.toNat
  let n := w * h
  let d := s.dst.toNat
  if w < 2 ∨ h < 2 then some (.dim, dimInfo s)
  else
    match (usedSources i).find? fun k => !inBuf s.bufWords (srcReg s k).toNat n with
    | some k => some (.range, k.number)
    | none =>
      if inBuf s.bufWords d n then
        match (usedSources i).find? fun k => overlaps (srcReg s k).toNat d n with
        | some k => some (.overlap, k.number)
        | none => none
      else some (.range, 3)

/-- The snapshot a successful issue of `i` takes (R33, R272). -/
def snapshotOf (i : Instr) (s : State) : Snapshot :=
  { op := (fieldsOf i).op, ksel := (fieldsOf i).ksel, w := s.width, h := s.height,
    n := BitVec.ofNat 32 (s.width.toNat * s.height.toNat), src0 := s.src0, src1 := s.src1, src2 := s.src2, dst := s.dst,
    k := kernelFor i s }

/-- What every accepted write of CMD does first (R272): CMD <- w, STATUS.DONE <- 0. -/
def acceptCommand (w : Word) (s : State) : State :=
  { s with cmd := w, done := false }

/-- A successful issue's effect (R272). -/
def launch (i : Instr) (s : State) : State :=
  { s with snap := snapshotOf i s, idx := 0, st := .busy }

/-- `Issue` of a legal command (R272). -/
def issue (i : Instr) (s : State) : State :=
  match issueCheck i (acceptCommand (encode i) s) with
  | some (f, info) => raise f info (acceptCommand (encode i) s)
  | none => launch i (acceptCommand (encode i) s)

/-! ## Engine step -/

/-- What the pixel function of a command answers: the output word, F_NMS_OOB (R216), or a stop of the model. -/
inductive Pixel where
  | word (v : Word)
  | nmsOob
  | stop (f : Fault)
deriving DecidableEq, Repr

/-- A pixel function that can only give a word or stop on an unreadable source. -/
def pixelOf : Except Fault Word → Pixel
  | .ok v => .word v
  | .error f => .stop f

/-- R273's tail: `MemWrite(L_DST + i, 1, out)`, `IDX <- i + 1`, and with the last pixel ST <- IDLE, DONE <- 1. -/
def commitPixel (out : Word) (s : State) : State :=
  { s with
    buf := writeWord s.buf (s.snap.dst.toNat + s.idx.toNat) out
    idx := s.idx + 1
    st := if s.idx + 1 = s.snap.n then .idle else s.st
    done := if s.idx + 1 = s.snap.n then true else s.done }

/-- `EngineStep` (R273) of a command whose pixel function is `pixel`. -/
def engineStep (pixel : State → Pixel) (s : State) : Host.Outcome State Fault Refusal :=
  match pixel s with
  | .word out =>
    if s.snap.dst.toNat + s.idx.toNat < s.bufWords then .next (commitPixel out s)
    else .fault (.noSuchWord (s.snap.dst.toNat + s.idx.toNat))
  | .nmsOob => .next (raise .nmsOob s.idx s)
  | .stop f => .fault f

/-- One atomic step of command `i` (log 1). In mode IDLE the command is being written to CMD: its issue (R272). In mode
BUSY with `i` itself in the snapshot: its engine step (R273). Otherwise (FAULTED, or BUSY with another command) a write
of CMD is refused (R38). -/
def command (i : Instr) (pixel : State → Pixel) (s : State) : Host.Outcome State Fault Refusal :=
  match s.st with
  | .idle => .next (issue i s)
  | .busy => if latched s = .command i then engineStep pixel s else .next (refuseCommand s)
  | .faulted => .next (refuseCommand s)

end Sys2Proof.Machine
end

