-- ==== Sys2Proof/Machine/Float.lean ====
section
/-! DEFINITION. The binary32 arithmetic of `40_arithmetic.md` (R120 to R130), computed exactly and rounded once: every
finite magnitude is a natural number of units of 2^-149, the least subnormal, so a sum, product, quotient or root is
an exact rational (or is bracketed by one) before `roundedBits` rounds it (R121). -/

namespace Sys2Proof.Machine

/-! ## Constants (R9, R10) -/

/-- The NaN every primitive returns (R127). -/
def nanCanon : Word := 0x7FC00000
def c4 : Word := 0x40800000
def c8 : Word := 0x41000000
def cHalf : Word := 0x3F000000
def c1414 : Word := 0x3FB4FDF4
def c0707 : Word := 0x3F34FDF4
def tLo : Word := 0x3E8A3D71
def tHi : Word := 0x4043D70A
def negTLo : Word := 0xBE8A3D71
def negTHi : Word := 0xC043D70A
def plusZero : Word := 0x00000000

/-! ## Value classes (R120) -/

/-- A binary32 value: NaN, an infinity, or a sign and a magnitude in units of 2^-149 (`fin neg 0` is a signed zero). -/
inductive FVal where
  | nan
  | inf (neg : Bool)
  | fin (neg : Bool) (mag : Nat)
deriving DecidableEq, Repr

/-- The value of a word (R120): sign bit 31, exponent 30:23, fraction 22:0. A normal number of exponent e is
(2^23 + fraction) * 2^(e-1) units, a subnormal is `fraction` units. -/
def unpack (w : Word) : FVal :=
  let e := (w.extractLsb 30 23).toNat
  let f := (w.extractLsb 22 0).toNat
  if e = 255 then (if f = 0 then .inf w.msb else .nan)
  else if e = 0 then .fin w.msb f
  else .fin w.msb ((2 ^ 23 + f) * 2 ^ (e - 1))

/-- The word with sign `neg` and bits 30:0 equal to `bits`. -/
def signed (neg : Bool) (bits : Nat) : Word := BitVec.ofNat 32 ((if neg then 2 ^ 31 else 0) + bits)

/-- The infinity of a sign (R120). -/
def infinity (neg : Bool) : Word := signed neg 0x7F800000

/-! ## Rounding (R121) -/

/-- The natural number nearest to n/d, a tie to the even one. -/
def nearestEven (n d : Nat) : Nat :=
  if d < 2 * (n % d) ∨ (2 * (n % d) = d ∧ n / d % 2 = 1) then n / d + 1 else n / d

/-- The binary32 spacing at n/d units is 2^(spacing n d) units: 1 below 2^24 units (subnormals and the least normals,
so nothing is flushed to zero), else what leaves 24 significant bits. -/
def spacing (n d : Nat) : Nat := (n / d).log2 - 23

/-- Bits 30:0 of n/d units rounded to nearest, ties to even. With q = 2^spacing, q * M units is encoded as
spacing * 2^23 + M, for M up to and including 2^24; from 2^128 on the result is infinity. -/
def roundedBits (n d : Nat) : Nat :=
  min (spacing n d * 2 ^ 23 + nearestEven n (d * 2 ^ spacing n d)) 0x7F800000

/-- The binary32 nearest to n/d units of 2^-149, with sign `neg`. -/
def roundTo (neg : Bool) (n d : Nat) : Word := signed neg (roundedBits n d)

/-! ## Primitives (R122 to R126) -/

/-- The integer number of units of a finite value. -/
def signedUnits (neg : Bool) (mag : Nat) : Int := if neg then -(mag : Int) else mag

/-- An exact sum of units, rounded; the zero rule of R122: +0, but -0 when both operands are -0. -/
def roundSum (bothNeg : Bool) (z : Int) : Word :=
  if z = 0 then signed bothNeg 0 else roundTo (decide (z < 0)) z.natAbs 1

/-- R122. -/
def fadd (x y : Word) : Word :=
  match unpack x, unpack y with
  | .nan, _ => nanCanon
  | _, .nan => nanCanon
  | .inf s, .inf t => if s = t then infinity s else nanCanon
  | .inf s, .fin _ _ => infinity s
  | .fin _ _, .inf t => infinity t
  | .fin s a, .fin t b => roundSum (s && t) (signedUnits s a + signedUnits t b)

/-- The sign bit flipped (R122). -/
def fneg (x : Word) : Word := x ^^^ 0x80000000

/-- R122: `fsub(x, y)` is `fadd(x, neg(y))`, and NAN_CANON for a NaN `y`. -/
def fsub (x y : Word) : Word :=
  match unpack y with
  | .nan => nanCanon
  | _ => fadd x (fneg y)

/-- R123. A product of two unit counts is in units of 2^-298. -/
def fmul (x y : Word) : Word :=
  match unpack x, unpack y with
  | .nan, _ => nanCanon
  | _, .nan => nanCanon
  | .inf s, .inf t => infinity (s != t)
  | .inf s, .fin t b => if b = 0 then nanCanon else infinity (s != t)
  | .fin s a, .inf t => if a = 0 then nanCanon else infinity (s != t)
  | .fin s a, .fin t b => roundTo (s != t) (a * b) (2 ^ 149)

/-- R124. -/
def fdiv (x y : Word) : Word :=
  match unpack x, unpack y with
  | .nan, _ => nanCanon
  | _, .nan => nanCanon
  | .inf _, .inf _ => nanCanon
  | .inf s, .fin t _ => infinity (s != t)
  | .fin s _, .inf t => signed (s != t) 0
  | .fin s a, .fin t b =>
    if b = 0 then (if a = 0 then nanCanon else infinity (s != t))
    else roundTo (s != t) (a * 2 ^ 149) b

/-- The bits below 2^k of the integer square root of n, `r` holding the bits above. -/
def isqrtBits (n : Nat) : Nat → Nat → Nat
  | 0, r => r
  | k + 1, r => isqrtBits n k (if (r + 2 ^ k) * (r + 2 ^ k) ≤ n then r + 2 ^ k else r)

/-- The greatest r with r * r ≤ n. -/
def isqrt (n : Nat) : Nat := isqrtBits n (n.log2 / 2 + 1) 0

/-- The root of `m` units of 2^-149, rounded. In units it is the square root of m * 2^149, that is half the square root
of m * 2^151; where that root is not whole, a quarter more than its whole part stands for it: no binary32 value and no
midpoint between two lies strictly between them. -/
def roundRoot (m : Nat) : Word :=
  let r := isqrt (m * 2 ^ 151)
  if r * r = m * 2 ^ 151 then roundTo false r 2 else roundTo false (2 * r + 1) 4

/-- R125. -/
def fsqrt (x : Word) : Word :=
  match unpack x with
  | .nan => nanCanon
  | .inf neg => if neg then nanCanon else infinity false
  | .fin neg m => if m = 0 then signed neg 0 else if neg then nanCanon else roundRoot m

/-! ## Comparisons (R126) -/

/-- x < y as extended reals; false with a NaN. -/
def FVal.lt : FVal → FVal → Bool
  | .nan, _ => false
  | _, .nan => false
  | .inf s, .inf t => s && !t
  | .inf s, .fin _ _ => s
  | .fin _ _, .inf t => !t
  | .fin s a, .fin t b => decide (signedUnits s a < signedUnits t b)

/-- x = y as extended reals (+0 equals -0); false with a NaN. -/
def FVal.eq : FVal → FVal → Bool
  | .nan, _ => false
  | _, .nan => false
  | .inf s, .inf t => s == t
  | .inf _, .fin _ _ => false
  | .fin _ _, .inf _ => false
  | .fin s a, .fin t b => decide (signedUnits s a = signedUnits t b)

def flt (x y : Word) : Bool := (unpack x).lt (unpack y)
def fle (x y : Word) : Bool := (unpack x).lt (unpack y) || (unpack x).eq (unpack y)
def fgt (x y : Word) : Bool := flt y x
def fge (x y : Word) : Bool := fle y x

end Sys2Proof.Machine
end

