-- ==== Sys2Proof/Machine/Convolution.lean ====
section
/-! DEFINITION. CONV.MEAN, CONV.SX, CONV.SY, CONV.USR (R160 to R175). -/

namespace Sys2Proof.Machine

/-- The product of one tap: weight left, pixel right (R164). -/
def tapProduct (s : State) (tap : Nat × Nat) : Except Fault Word :=
  match engineRead s (s.snap.src0.toNat + neighbour s.snap.w.toNat s.idx.toNat tap) with
  | .ok v => .ok (fmul (kernelAt s.snap.k tap.1 tap.2) v)
  | .error f => .error f

/-- The products of a list of taps, in order; the first unreadable source word stops the step. -/
def tapProducts (s : State) : List (Nat × Nat) → Except Fault (List Word)
  | [] => .ok []
  | tap :: rest =>
    match tapProduct s tap with
    | .error f => .error f
    | .ok p =>
      match tapProducts s rest with
      | .error f => .error f
      | .ok ps => .ok (p :: ps)

/-- The sum left to right from the first product, no initial zero (R164). Every class keeps at least four taps (R162),
so the empty list does not occur. -/
def sumProducts : List Word → Word
  | [] => plusZero
  | p :: ps => ps.foldl fadd p

/-- The taps of the pixel at IDX (R161, R162). -/
def tapsHere (s : State) : List (Nat × Nat) :=
  taps (classOf s.snap.w.toNat s.snap.h.toNat (rowOf s.snap.w.toNat s.idx.toNat) (colOf s.snap.w.toNat s.idx.toNat))

/-- `ConvPixel(IDX)` with the latched kernel (R160, R164). -/
def convPixel (s : State) : Pixel :=
  match tapProducts s (tapsHere s) with
  | .ok ps => .word (sumProducts ps)
  | .error f => .stop f

/-- CONV.MEAN (R166). -/
def execConvMean (s : State) : Host.Outcome State Fault Refusal := command .convMean convPixel s

/-- CONV.SX (R167). -/
def execConvSx (s : State) : Host.Outcome State Fault Refusal := command .convSx convPixel s

/-- CONV.SY (R168). -/
def execConvSy (s : State) : Host.Outcome State Fault Refusal := command .convSy convPixel s

/-- CONV.USR (R169). -/
def execConvUsr (s : State) : Host.Outcome State Fault Refusal := command .convUsr convPixel s

end Sys2Proof.Machine
end

