-- ==== Sys2Proof/Machine/Gradient.lean ====
section
/-! DEFINITION. RENORM, MAGF, MAGX (R190 to R195). -/

namespace Sys2Proof.Machine

/-- The word of pixel IDX of a latched source (R69). -/
def pixelWord (s : State) (k : Src) : Except Fault Word :=
  engineRead s ((latchedSrc s.snap k).toNat + s.idx.toNat)

/-- `(v+4)/8` (R191). -/
def renormWord (v : Word) : Word := fdiv (fadd v c4) c8

/-- The "full" magnitude (R192). -/
def magfWord (sx sy : Word) : Word := fdiv (fsqrt (fadd (fmul sx sx) (fmul sy sy))) c1414

/-- The "full-x" magnitude (R193). -/
def magxWord (sx sy : Word) : Word :=
  let cx := fsub sx cHalf
  let cy := fsub sy cHalf
  fdiv (fsqrt (fadd (fmul cx cx) (fmul cy cy))) c0707

/-- RENORM's pixel (R191). -/
def renormPixel (s : State) : Pixel :=
  match pixelWord s .src0 with
  | .ok v => .word (renormWord v)
  | .error f => .stop f

/-- A pixel from SRC0 and SRC1 (R192, R193). -/
def pairPixel (f : Word → Word → Word) (s : State) : Pixel :=
  match pixelWord s .src0 with
  | .error e => .stop e
  | .ok sx =>
    match pixelWord s .src1 with
    | .error e => .stop e
    | .ok sy => .word (f sx sy)

/-- MAGF's pixel (R192). -/
def magfPixel (s : State) : Pixel := pairPixel magfWord s

/-- MAGX's pixel (R193). -/
def magxPixel (s : State) : Pixel := pairPixel magxWord s

/-- RENORM (R191). -/
def execRenorm (s : State) : Host.Outcome State Fault Refusal := command .renorm renormPixel s

/-- MAGF (R192). -/
def execMagf (s : State) : Host.Outcome State Fault Refusal := command .magf magfPixel s

/-- MAGX (R193). -/
def execMagx (s : State) : Host.Outcome State Fault Refusal := command .magx magxPixel s

end Sys2Proof.Machine
end

