-- ==== Sys2Proof/Machine/Nms.lean ====
section
/-! DEFINITION. NMS (R210 to R220). -/

namespace Sys2Proof.Machine

/-- `Bucket(ang)` (R213). -/
def bucketOf (ang : Word) : Bucket :=
  if fgt ang negTLo && flt ang tLo then .z
  else if fge ang tLo && flt ang tHi then .p
  else if fle ang negTLo && fgt ang negTHi then .n
  else .h

/-- The ratio of the centred gradients (R212). -/
def nmsRatio (sx sy : Word) : Word := fdiv (fsub sx cHalf) (fsub sy cHalf)

/-- The first or last row (R211): `i < W` or `i >= N - W`. -/
def isBorderRow (w n i : Nat) : Bool := decide (i < w) || decide ((n : Int) - w ≤ i)

/-- An index leaves [0, N) (R216). -/
def outside (n : Nat) (j : Int) : Bool := decide (j < 0) || decide ((n : Int) ≤ j)

/-- The keep test (R217): the magnitude word bit for bit, or +0. -/
def keepWord (mi ma mb : Word) : Word := if fge mi ma && fge mi mb then mi else plusZero

/-- The neighbour indices of a pixel in a bucket (R214, R215): plain sums, not reduced. -/
def nmsNeighbours (w i : Nat) (b : Bucket) : Int × Int := ((i : Int) + (nmsOffsets w b).1, (i : Int) + (nmsOffsets w b).2)

/-- The magnitude words of the pixel and its two neighbours, and the keep test (R217). -/
def nmsKeep (s : State) (ja jb : Int) : Pixel :=
  match pixelWord s .src2 with
  | .error f => .stop f
  | .ok mi =>
    match engineRead s (s.snap.src2.toNat + ja) with
    | .error f => .stop f
    | .ok ma =>
      match engineRead s (s.snap.src2.toNat + jb) with
      | .error f => .stop f
      | .ok mb => .word (keepWord mi ma mb)

/-- A pixel that is in no border row, its neighbours known (R216, R217). -/
def nmsCompare (s : State) (js : Int × Int) : Pixel :=
  if outside s.snap.n.toNat js.1 || outside s.snap.n.toNat js.2 then .nmsOob else nmsKeep s js.1 js.2

/-- NMS's pixel (R218). -/
def nmsPixel (s : State) : Pixel :=
  if isBorderRow s.snap.w.toNat s.snap.n.toNat s.idx.toNat then pixelOf (pixelWord s .src2)
  else
    match pixelWord s .src0 with
    | .error f => .stop f
    | .ok sx =>
      match pixelWord s .src1 with
      | .error f => .stop f
      | .ok sy => nmsCompare s (nmsNeighbours s.snap.w.toNat s.idx.toNat (bucketOf (nmsRatio sx sy)))

/-- NMS (R218). -/
def execNms (s : State) : Host.Outcome State Fault Refusal := command .nms nmsPixel s

end Sys2Proof.Machine
end

