-- ==== Sys2Proof/Machine/Dispatch.lean ====
section
/-! DEFINITION. One atomic step of a command (R272, R273; log 1): one arm per command of R93. -/

namespace Sys2Proof.Machine

def exec (i : Instr) (s : State) : Host.Outcome State Fault Refusal :=
  match i with
  | .convMean => Sys2Proof.Machine.execConvMean s
  | .convSx => Sys2Proof.Machine.execConvSx s
  | .convSy => Sys2Proof.Machine.execConvSy s
  | .convUsr => Sys2Proof.Machine.execConvUsr s
  | .renorm => Sys2Proof.Machine.execRenorm s
  | .magf => Sys2Proof.Machine.execMagf s
  | .magx => Sys2Proof.Machine.execMagx s
  | .nms => Sys2Proof.Machine.execNms s

end Sys2Proof.Machine
end

