-- ==== Sys2Proof/Machine/Flags.lean ====
section
/-! DEFINITION. CORE's only flags are the STATUS bits (R24, R128: no arithmetic flag exists). The CTRL and STATUS words,
the host's writes to them, and the interrupt line. -/

namespace Sys2Proof.Machine

/-- STATUS.BUSY: 1 exactly when ST = BUSY (R24). -/
def busyFlag (s : State) : Bool := s.st == .busy

/-- STATUS.FAULT: 1 exactly when ST = FAULTED (R24). -/
def faultFlag (s : State) : Bool := s.st == .faulted

/-- The word STATUS reads as (R24, R274): BUSY 0, DONE 1, FAULT 2, WERR 3, FCODE 15:8, other bits 0. -/
def statusWord (s : State) : Word :=
  (0 : BitVec 16) ++ s.fcode ++ (0 : BitVec 4) ++ BitVec.ofBool s.werr ++ BitVec.ofBool (faultFlag s)
    ++ BitVec.ofBool s.done ++ BitVec.ofBool (busyFlag s)

/-- The word CTRL reads as (R23, R274): IE_DONE 1, IE_FAULT 2, other bits 0. -/
def ctrlWord (s : State) : Word :=
  (0 : BitVec 29) ++ BitVec.ofBool s.ieFault ++ BitVec.ofBool s.ieDone ++ (0 : BitVec 1)

/-- A host write of STATUS (R24, R275): bits 1 and 3 are W1C for DONE and WERR, every other bit is ignored. -/
def writeStatus (v : Word) (s : State) : State :=
  { s with done := s.done && !v.getLsbD 1, werr := s.werr && !v.getLsbD 3 }

/-- A host write of CTRL (R23, R275): bit 0 = 1 is a soft reset and nothing else; else bits 1 and 2 are stored. -/
def writeCtrl (v : Word) (s : State) : State :=
  if v.getLsbD 0 then softReset s else { s with ieDone := v.getLsbD 1, ieFault := v.getLsbD 2 }

/-- The interrupt output (R36, R271). -/
def irq (s : State) : Bool := (s.done && s.ieDone) || (faultFlag s && s.ieFault)

end Sys2Proof.Machine
end

