-- ==== Sys2Proof/Machine/HostPort.lean ====
section
/-! DEFINITION. What the host does to CORE: register reads and writes (R274, R275), the command write (R272, R38), BUF
accesses (R65, R72), hardware reset (R301), and the statements of its script (R96, R241). Each is one atomic step
(R66). -/

namespace Sys2Proof.Machine

/-! ## The register block (R21) -/

/-- A named register of the block (R21). -/
inductive Reg where
  | id
  | ctrl
  | status
  | cmd
  | width
  | height
  | src0
  | src1
  | src2
  | dst
  | finfo
  | kreg (n : Fin 9)
deriving DecidableEq, Repr

/-- The byte offset of a register (R21). -/
def regOffset : Reg → Nat
  | .id => 0x00
  | .ctrl => 0x04
  | .status => 0x08
  | .cmd => 0x0C
  | .width => 0x10
  | .height => 0x14
  | .src0 => 0x18
  | .src1 => 0x1C
  | .src2 => 0x20
  | .dst => 0x24
  | .finfo => 0x28
  | .kreg n => 0x40 + 4 * n.val

/-- KREG0 to KREG8, at 0x40 + 4n. -/
def kregAt (o : Nat) : Option Reg :=
  if h : 0x40 ≤ o ∧ o < 0x64 ∧ o % 4 = 0 then some (.kreg ⟨(o - 0x40) / 4, by omega⟩) else none

/-- The register at a byte offset; none at a reserved one (R37). -/
def regAt (o : Nat) : Option Reg :=
  match o with
  | 0x00 => some .id
  | 0x04 => some .ctrl
  | 0x08 => some .status
  | 0x0C => some .cmd
  | 0x10 => some .width
  | 0x14 => some .height
  | 0x18 => some .src0
  | 0x1C => some .src1
  | 0x20 => some .src2
  | 0x24 => some .dst
  | 0x28 => some .finfo
  | o => kregAt o

/-- ID always reads this (R2, R22). -/
def idWord : Word := 0x43334531

/-- The word a register reads as (R22 to R30, R274). -/
def regRead (r : Reg) (s : State) : Word :=
  match r with
  | .id => idWord
  | .ctrl => ctrlWord s
  | .status => statusWord s
  | .cmd => s.cmd
  | .width => s.width.setWidth 32
  | .height => s.height.setWidth 32
  | .src0 => s.src0
  | .src1 => s.src1
  | .src2 => s.src2
  | .dst => s.dst
  | .finfo => s.finfo
  | .kreg n => s.kreg[n.val]

/-- A write of CMD (R25, R272, R38): accepted in IDLE (an illegal word takes F_ILLCMD, R261; a legal one is issued),
refused with WERR otherwise. -/
def writeCmd (w : Word) (s : State) : Host.Outcome State Fault Refusal :=
  match s.st with
  | .idle =>
    match decode w with
    | .command i => exec i s
    | .illegal _ => .next (raise .illCmd w (acceptCommand w s))
  | .busy => .next (refuseCommand s)
  | .faulted => .next (refuseCommand s)

/-- A write of a register other than CMD (R275). -/
def regWrite (r : Reg) (v : Word) (s : State) : State :=
  match r with
  | .id => s
  | .ctrl => writeCtrl v s
  | .status => writeStatus v s
  | .cmd => s
  | .width => { s with width := v.extractLsb 15 0 }
  | .height => { s with height := v.extractLsb 15 0 }
  | .src0 => { s with src0 := v }
  | .src1 => { s with src1 := v }
  | .src2 => { s with src2 := v }
  | .dst => { s with dst := v }
  | .finfo => s
  | .kreg n => { s with kreg := s.kreg.set n.val v }

/-- What is read at a byte offset: a register, or 0 at a reserved offset (R37, R274). -/
def offsetRead (o : Nat) (s : State) : Word :=
  match regAt o with
  | some r => regRead r s
  | none => 0

/-- What a write at a byte offset does (R275); at a reserved offset nothing (R37). -/
def offsetWrite (o : Nat) (v : Word) (s : State) : Host.Outcome State Fault Refusal :=
  match regAt o with
  | some .cmd => writeCmd v s
  | some r => .next (regWrite r v s)
  | none => .next s

/-! ## Host operations (R7) -/

/-- HostReadReg (R65, R274). -/
def hostReadReg (bits o : Nat) (s : State) : State :=
  if regAccessOk bits o then note (.value (offsetRead o s)) s else note .refused s

/-- HostWriteReg (R65, R275). -/
def hostWriteReg (bits o : Nat) (v : Word) (s : State) : Host.Outcome State Fault Refusal :=
  if regAccessOk bits o then offsetWrite o v s else .next (note .refused s)

/-- What a read of BUF word `a` answers: unspecified in the live destination (R72 (c)) and where the word has no
defined value (R74; log 7). -/
def bufReply (s : State) (a : Nat) : Reply :=
  if inLiveDestination s a then .unspecified
  else
    match readWord s.buf a with
    | some v => .value v
    | none => .unspecified

/-- HostReadBuf (R65). -/
def hostReadBuf (bits a : Nat) (s : State) : State :=
  if bufAccessOk s.bufWords bits a then note (bufReply s a) s else note .refused s

/-- HostWriteBuf (R65); a write into a live range has no move (R72, R305 HP1, HP2; log 8). -/
def hostWriteBuf (bits a : Nat) (v : Word) (s : State) : Host.Outcome State Fault Refusal :=
  if bufAccessOk s.bufWords bits a then
    if inLiveDestination s a then .refused (.hostWritesLiveDestination a)
    else if inLiveSource s a then .refused (.hostWritesLiveSource a)
    else .next { s with buf := writeWord s.buf a v }
  else .next (note .refused s)

/-! ## The script -/

/-- One poll of `wait` (R96, R312): a read of STATUS, and the statement again while BUSY = 1; `after` is what the host
does once BUSY = 0. -/
def poll (again : Stmt) (after : State → State) (s : State) : State :=
  let s1 := hostReadReg 32 0x08 s
  if busyFlag s then { s1 with script := again :: s1.script } else after s1

/-- R241: "if a `wait` ends with STATUS.FAULT = 1 the host stops": the next `rest` statements are skipped. -/
def stopOnFault (rest : Nat) (s : State) : State :=
  if faultFlag s then { s with script := s.script.drop rest } else s

/-- One statement of the script, taken off it already. -/
def runStmt (op : Stmt) (s : State) : Host.Outcome State Fault Refusal :=
  match op with
  | .readReg bits o => .next (hostReadReg bits o s)
  | .writeReg bits o v => hostWriteReg bits o v s
  | .readBuf bits a => .next (hostReadBuf bits a s)
  | .writeBuf bits a v => hostWriteBuf bits a v s
  | .wait => .next (poll .wait (fun t => t) s)
  | .waitOrStop rest => .next (poll (.waitOrStop rest) (stopOnFault rest) s)
  | .hardwareReset => .next (hardwareReset s)

/-- The host's turn: the next statement of its script; nothing when the script has finished (R312). -/
def hostTurn (s : State) : Host.Outcome State Fault Refusal :=
  match s.script with
  | [] => .next s
  | op :: rest => runStmt op { s with script := rest }

/-- The engine's turn: the engine step of the latched command while BUSY (R273); nothing in the other modes. -/
def engineTurn (s : State) : Host.Outcome State Fault Refusal :=
  match s.st with
  | .busy =>
    match latched s with
    | .command i => exec i s
    | .illegal _ => .fault .snapshotNoCommand
  | .idle => .next s
  | .faulted => .next s

/-- One step of the two agents (R8, R71). -/
def agentStep (s : State) : Host.Outcome State Fault Refusal :=
  match nextAgent s with
  | .host => hostTurn (popTurn s)
  | .engine => engineTurn (popTurn s)

/-- The host statement that issues the table's word `w` of `nbits` bits: a write of CMD (R25, R96). -/
def issueStmt (nbits w : Nat) : Stmt := .writeReg 32 (regOffset .cmd) (BitVec.ofNat 32 (w % 2 ^ nbits))

end Sys2Proof.Machine
end

