-- ==== Sys2Proof/Machine/Step.lean ====
section
/-! DEFINITION. One step of the machine, and how the host of this pipeline places a command where the next step takes
it. CORE fetches no instruction (R60, R303): a command arrives by the host's write of CMD, so the place a step takes its
next command from is the head of the host's script (log 3). -/

namespace Sys2Proof.Machine

/-- One atomic step of whichever agent moves next (R8, R71). -/
def step (s : State) : Host.Outcome State Fault Refusal := agentStep s

/-- `s` with the write of the table's word to CMD as the host's next statement, the host's turn next, and mode IDLE,
in which alone a write of CMD is accepted (R25). -/
def State.withFetchWord (s : State) (nbits w : Nat) : State :=
  { s with script := issueStmt nbits w :: s.script, sched := .host :: s.sched, st := .idle }

end Sys2Proof.Machine
end

