-- ==== Sys2Proof/Machine/Script.lean ====
section
/-! DEFINITION. Host scripts (R96), the pseudo-instructions of R97, and the edge-detection pipeline as host programs
(R240 to R246): each is the list of statements it expands to. CORE itself executes none of these. -/

namespace Sys2Proof.Machine

/-- `wr REG, v`. -/
def wr (r : Reg) (v : Word) : Stmt := .writeReg 32 (regOffset r) v

/-- `rd REG`. -/
def rd (r : Reg) : Stmt := .readReg 32 (regOffset r)

/-- `wb a, v`. -/
def wb (a : Nat) (v : Word) : Stmt := .writeBuf 32 a v

/-- `rb a`. -/
def rb (a : Nat) : Stmt := .readBuf 32 a

/-- `<mnemonic>` alone: `wr CMD, <word>`. -/
def issueOf (i : Instr) : Stmt := wr .cmd (encode i)

/-- `reset`: `wr CTRL, 1`. -/
def resetStmt : Stmt := wr .ctrl 1

/-- `dim W, H`. -/
def dim (w h : Word) : List Stmt := [wr .width w, wr .height h]

/-- `kernel k0, ..., k8`. -/
def kernel (k : Vector Word 9) : List Stmt :=
  [wr (.kreg 0) k[0], wr (.kreg 1) k[1], wr (.kreg 2) k[2], wr (.kreg 3) k[3], wr (.kreg 4) k[4],
    wr (.kreg 5) k[5], wr (.kreg 6) k[6], wr (.kreg 7) k[7], wr (.kreg 8) k[8]]

/-- The register writes and the issue of a one-source command, without the wait (R97). -/
def unary (i : Instr) (d a : Word) : List Stmt := [wr .src0 a, wr .dst d, issueOf i]

/-- The same for a two-source command. -/
def binary (i : Instr) (d a b : Word) : List Stmt := [wr .src0 a, wr .src1 b, wr .dst d, issueOf i]

/-- The same for NMS. -/
def ternary (i : Instr) (d a b m : Word) : List Stmt := [wr .src0 a, wr .src1 b, wr .src2 m, wr .dst d, issueOf i]

/-- `CONV.MEAN d, a` and so on (R97): the writes, the issue, one `wait`. -/
def convMeanPseudo (d a : Word) : List Stmt := unary .convMean d a ++ [.wait]
def convSxPseudo (d a : Word) : List Stmt := unary .convSx d a ++ [.wait]
def convSyPseudo (d a : Word) : List Stmt := unary .convSy d a ++ [.wait]
def convUsrPseudo (d a : Word) : List Stmt := unary .convUsr d a ++ [.wait]
def renormPseudo (d a : Word) : List Stmt := unary .renorm d a ++ [.wait]
def magfPseudo (d a b : Word) : List Stmt := binary .magf d a b ++ [.wait]
def magxPseudo (d a b : Word) : List Stmt := binary .magx d a b ++ [.wait]
def nmsPseudo (d a b m : Word) : List Stmt := ternary .nms d a b m ++ [.wait]

/-- A sequence of commands, each followed by a wait after which a fault stops the rest of the sequence (R241). -/
def pipeline : List (List Stmt) → List Stmt
  | [] => []
  | c :: rest => c ++ [.waitOrStop (pipeline rest).length] ++ pipeline rest

/-- Steps A and B up to the renormalised gradients (R240, R241). -/
def gradients (a t0 t1 t2 t3 : Word) : List (List Stmt) :=
  [unary .convSx t0 a, unary .convSy t1 a, unary .renorm t2 t0, unary .renorm t3 t1]

/-- `EDGE.FULL d, a, t0, t1, t2, t3` (R241). -/
def edgeFull (d a t0 t1 t2 t3 : Word) : List Stmt :=
  pipeline (gradients a t0 t1 t2 t3 ++ [binary .magf d t2 t3])

/-- `EDGE.FULLX d, a, t0, t1, t2, t3` (R242). -/
def edgeFullx (d a t0 t1 t2 t3 : Word) : List Stmt :=
  pipeline (gradients a t0 t1 t2 t3 ++ [binary .magx d t2 t3])

/-- `EDGE.CANNY d, a, t0, t1, t2, t3, t4` (R243). -/
def edgeCanny (d a t0 t1 t2 t3 t4 : Word) : List Stmt :=
  pipeline (gradients a t0 t1 t2 t3 ++ [binary .magx t4 t2 t3, ternary .nms d t2 t3 t4])

end Sys2Proof.Machine
end

