-- ==== Sys2Proof/Safety.lean ====
section
/-! DEFINITION. The terms in which claims about CORE are stated: legal operands at issue, the invariant of every
reachable state, readable sources, and the real value a binary32 word stands for. Written from the rules, apart from
the functions the machine uses. -/

namespace Sys2Proof.Machine

/-! ## Issue -/

/-- N = WIDTH * HEIGHT (R13), unbounded. -/
def pixelCount (s : State) : Nat := s.width.toNat * s.height.toNat

/-- The operand registers are legal for command `i`: dimensions (R262), ranges (R263), no overlap (R264). -/
structure OperandsLegal (i : Instr) (s : State) : Prop where
  width_two : 2 ≤ s.width.toNat
  height_two : 2 ≤ s.height.toNat
  sources_inside : ∀ k ∈ usedSources i, (srcReg s k).toNat + pixelCount s ≤ s.bufWords
  destination_inside : s.dst.toNat + pixelCount s ≤ s.bufWords
  no_overlap : ∀ k ∈ usedSources i,
    ¬((srcReg s k).toNat < s.dst.toNat + pixelCount s ∧ s.dst.toNat < (srcReg s k).toNat + pixelCount s)

/-! ## Reachable states -/

/-- A command `i` is in progress with a snapshot some legal issue took, and IDX is below N (R33, R34). -/
structure RunningCommand (i : Instr) (s : State) : Prop where
  busy : s.st = .busy
  op_latched : s.snap.op = (encode i).extractLsb 3 0
  ksel_latched : s.snap.ksel = (encode i).extractLsb 5 4
  width_two : 2 ≤ s.snap.w.toNat
  height_two : 2 ≤ s.snap.h.toNat
  count : s.snap.n.toNat = s.snap.w.toNat * s.snap.h.toNat
  index_below : s.idx.toNat < s.snap.n.toNat
  sources_inside : ∀ k ∈ usedSources i, (latchedSrc s.snap k).toNat + s.snap.n.toNat ≤ s.bufWords
  destination_inside : s.snap.dst.toNat + s.snap.n.toNat ≤ s.bufWords
  no_overlap : ∀ k ∈ usedSources i,
    ¬((latchedSrc s.snap k).toNat < s.snap.dst.toNat + s.snap.n.toNat ∧
      s.snap.dst.toNat < (latchedSrc s.snap k).toNat + s.snap.n.toNat)
  mean_kernel : i = .convMean → s.snap.k = romMean
  sobelX_kernel : i = .convSx → s.snap.k = romSobelX
  sobelY_kernel : i = .convSy → s.snap.k = romSobelY

/-- What holds of every state the machine can be in: BUF is in canonical form and inside BUF_WORDS, DONE only when
idle, FCODE and FINFO clear unless FAULTED (R24, R29, R260), and while BUSY a running command. -/
structure CoreInv (s : State) : Prop where
  bufWords_pos : 1 ≤ s.bufWords
  bufWords_le : s.bufWords ≤ 2 ^ 32
  buf_wf : Memory.wf s.buf = true
  buf_inside : ∀ c ∈ s.buf, c.1 < 4 * s.bufWords
  done_idle : s.done = true → s.st = .idle
  fcode_clear : s.st ≠ .faulted → s.fcode = 0
  fcode_legal : s.st = .faulted → 1 ≤ s.fcode.toNat ∧ s.fcode.toNat ≤ 5
  finfo_clear : s.st ≠ .faulted → s.finfo = 0
  busy_running : s.st = .busy → ∃ i, RunningCommand i s

/-- Premise HP4 (R305): every word of every used source range of the running command `i` has a defined value. -/
def SourcesDefined (i : Instr) (s : State) : Prop :=
  ∀ k ∈ usedSources i, ∀ j < s.snap.n.toNat, ∃ v, readWord s.buf ((latchedSrc s.snap k).toNat + j) = some v

/-- The end of an engine step that produced `out` for pixel IDX (R273), in unbounded integers: the word is stored, IDX
advances, and with the last pixel ST <- IDLE and DONE <- 1. -/
def afterPixel (s : State) (out : Word) : State :=
  { s with
    buf := writeWord s.buf (s.snap.dst.toNat + s.idx.toNat) out
    idx := BitVec.ofNat 32 (s.idx.toNat + 1)
    st := if s.idx.toNat + 1 = s.snap.n.toNat then .idle else .busy
    done := if s.idx.toNat + 1 = s.snap.n.toNat then true else s.done }

/-- The taps of the pixel at row `r`, column `c` of a w x h image by the general law of R162: all nine in row-major
order, less those whose neighbour, at row r+a-1 and column c+b-1, does not exist. -/
def existingTaps (w h r c : Nat) : List (Nat × Nat) :=
  [(0, 0), (0, 1), (0, 2), (1, 0), (1, 1), (1, 2), (2, 0), (2, 1), (2, 2)].filter fun t =>
    decide (1 ≤ r + t.1) && decide (r + t.1 ≤ h) && decide (1 ≤ c + t.2) && decide (c + t.2 ≤ w)

/-- The weighted sum of R164: each product rounded, summed left to right from the first product. -/
def weightedSum (k : Vector Word 9) (px : Nat × Nat → Word) : List (Nat × Nat) → Word
  | [] => 0
  | t :: ts => ts.foldl (fun acc u => fadd acc (fmul (k.toList.getD (3 * u.1 + u.2) 0) (px u)))
      (fmul (k.toList.getD (3 * t.1 + t.2) 0) (px t))

/-- Byte address `b` belongs to BUF word `a` (R64). -/
def byteOfWord (a b : Nat) : Prop := 4 * a ≤ b ∧ b < 4 * a + 4

/-! ## Binary32 values (R120) -/

/-- Exponent field, bits 30:23. -/
def expField (x : Word) : Nat := x.toNat / 2 ^ 23 % 256

/-- Fraction field, bits 22:0. -/
def fracField (x : Word) : Nat := x.toNat % 2 ^ 23

/-- Sign, bit 31. -/
def isNeg (x : Word) : Bool := decide (2 ^ 31 ≤ x.toNat)

/-- Exponent 255 and a fraction (R120). -/
def IsNaN (x : Word) : Prop := expField x = 255 ∧ fracField x ≠ 0

/-- Exponent 255 and no fraction (R120). -/
def IsInf (x : Word) : Prop := expField x = 255 ∧ fracField x = 0

/-- Zero, subnormal or normal (R120). -/
def IsFinite (x : Word) : Prop := expField x < 255

/-- The magnitude of a finite word: exponent 0 is fraction * 2^-149, exponent e is (2^23 + fraction) * 2^(e-150). -/
def magnitude (x : Word) : ℚ :=
  if expField x = 0 then (fracField x : ℚ) / 2 ^ 149
  else (2 ^ 23 + fracField x : ℚ) * 2 ^ expField x / 2 ^ 150

/-- The value of a finite word (R120). -/
def value (x : Word) : ℚ := if isNeg x then -magnitude x else magnitude x

/-- `z` is the exact value `q` correctly rounded (R121): below 2^128 - 2^103 in magnitude (halfway between the largest
finite value and 2^128) the nearest finite word, the even one of two equally near; from there on the infinity of its
sign. -/
def RoundsTo (q : ℚ) (z : Word) : Prop :=
  (|q| < 2 ^ 128 - 2 ^ 103 →
    IsFinite z ∧ ∀ z' : Word, IsFinite z' →
      |value z - q| ≤ |value z' - q| ∧
      (|value z' - q| = |value z - q| → value z' = value z ∨ z.toNat % 2 = 0)) ∧
  (2 ^ 128 - 2 ^ 103 ≤ |q| → z = if q < 0 then 0xFF800000 else 0x7F800000)

end Sys2Proof.Machine
end

