-- ==== Sys2Proof/Certificates/Slice0/Obligations.lean ====
section
/-! DEFINITION. What is stated about CORE, from the numbered rules of spec/, for the provers. -/

open Sys2Proof Sys2Proof.Machine

/-! ## Command words -/

/-- R93: the eight legal words, each other word illegal, and what issuing an illegal one does. -/
def Obligations.LegalWordsAreTheEightCommands : Prop :=
  (∀ (w : Word) (i : Instr), decode w = .command i ↔ w = encode i) ∧
  encode .convMean = 0x00000001 ∧ encode .convSx = 0x00000011 ∧ encode .convSy = 0x00000021 ∧
  encode .convUsr = 0x00000031 ∧ encode .renorm = 0x00000002 ∧ encode .magf = 0x00000003 ∧
  encode .magx = 0x00000004 ∧ encode .nms = 0x00000005 ∧
  ∀ (s : State) (w : Word), s.st = .idle → (∀ i, w ≠ encode i) →
    writeCmd w s = .next { s with cmd := w, done := false, st := .faulted, fcode := 1, finfo := w }

/-- A few words written out from R90 and R93: ZERO 31:6, KSEL 5:4, OP 3:0. -/
def Obligations.WordsDecodeAsTabled : Prop :=
  decode 0b00000000000000000000000000110001 = .command .convUsr ∧
  decode 0b00000000000000000000000000000011 = .command .magf ∧
  decode 0b00000000000000000000000000000101 = .command .nms ∧
  decode 0b00000000000000000000000000010010 = .illegal .kselNotZero ∧
  decode 0b00000000000000000000000000000110 = .illegal .reservedOp ∧
  decode 0b10000000000000000000000000000001 = .illegal .zeroField

/-- A step runs the decoded command: the host's write of a legal word to CMD in mode IDLE is `exec` of the command, and
so is the engine's turn on the latched command in mode BUSY (R272, R273; that one function is both is the model's
choice, log 1; who moves next is log 2). -/
def Obligations.StepRunsTheDecodedCommand : Prop :=
  (∀ (s : State) (w : Word) (rest : List Stmt) (i : Instr),
    nextAgent s = .host → s.script = .writeReg 32 0x0C w :: rest → s.st = .idle → decode w = .command i →
    i.wf = true ∧ step s = exec i { s with script := rest, sched := s.sched.tail }) ∧
  (∀ (s : State) (i : Instr), nextAgent s = .engine → s.st = .busy → latched s = .command i →
    step s = exec i { s with sched := s.sched.tail })

/-! ## Issue -/

/-- R272: a legal issue latches the snapshot, clears DONE and IDX, and makes CORE busy; nothing else changes. -/
def Obligations.LegalIssueLaunches : Prop :=
  ∀ (i : Instr) (s : State), s.st = .idle → OperandsLegal i s →
    exec i s = .next
      { s with
        cmd := encode i
        done := false
        snap :=
          { op := (encode i).extractLsb 3 0
            ksel := (encode i).extractLsb 5 4
            w := s.width
            h := s.height
            n := BitVec.ofNat 32 (s.width.toNat * s.height.toNat)
            src0 := s.src0
            src1 := s.src1
            src2 := s.src2
            dst := s.dst
            k :=
              match i with
              | .convMean => #v[0x3F800000, 0x3F800000, 0x3F800000, 0x3F800000, 0x3F800000, 0x3F800000, 0x3F800000,
                  0x3F800000, 0x3F800000]
              | .convSx => #v[0xBF800000, 0, 0x3F800000, 0xC0000000, 0, 0x40000000, 0xBF800000, 0, 0x3F800000]
              | .convSy => #v[0x3F800000, 0x40000000, 0x3F800000, 0, 0, 0, 0xBF800000, 0xC0000000, 0xBF800000]
              | .convUsr => s.kreg
              | .renorm => s.snap.k
              | .magf => s.snap.k
              | .magx => s.snap.k
              | .nms => s.snap.k }
        idx := 0
        st := .busy }

/-- R262. -/
def Obligations.SmallDimensionsFault : Prop :=
  ∀ (i : Instr) (s : State), s.st = .idle → s.width.toNat < 2 ∨ s.height.toNat < 2 →
    exec i s = .next { s with
      cmd := encode i, done := false, st := .faulted, fcode := 2,
      finfo := BitVec.ofNat 32 (s.height.toNat * 65536 + s.width.toNat) }

/-- R263: the first buffer, in the order SRC0, SRC1, SRC2 (the used ones), DST, that runs past the end of BUF. -/
def Obligations.BufferOutsideBufFaults : Prop :=
  ∀ (i : Instr) (s : State) (before after : List (Word × Word)) (number base : Word),
    s.st = .idle → 2 ≤ s.width.toNat → 2 ≤ s.height.toNat →
    (usedSources i).map (fun k => (k.number, srcReg s k)) ++ [(3, s.dst)] = before ++ (number, base) :: after →
    (∀ b ∈ before, b.2.toNat + s.width.toNat * s.height.toNat ≤ s.bufWords) →
    s.bufWords < base.toNat + s.width.toNat * s.height.toNat →
    exec i s = .next { s with cmd := encode i, done := false, st := .faulted, fcode := 3, finfo := number }

/-- R264: the first used source that shares a word with the destination, once every buffer is inside BUF. -/
def Obligations.DestinationOverlapFaults : Prop :=
  ∀ (i : Instr) (s : State) (before after : List Src) (k : Src),
    s.st = .idle → 2 ≤ s.width.toNat → 2 ≤ s.height.toNat →
    (∀ j ∈ usedSources i, (srcReg s j).toNat + s.width.toNat * s.height.toNat ≤ s.bufWords) →
    s.dst.toNat + s.width.toNat * s.height.toNat ≤ s.bufWords →
    usedSources i = before ++ k :: after →
    (∀ j ∈ before, ∀ a, ¬(inRange (srcReg s j).toNat (s.width.toNat * s.height.toNat) a = true ∧
      inRange s.dst.toNat (s.width.toNat * s.height.toNat) a = true)) →
    (∃ a, inRange (srcReg s k).toNat (s.width.toNat * s.height.toNat) a = true ∧
      inRange s.dst.toNat (s.width.toNat * s.height.toNat) a = true) →
    exec i s = .next { s with cmd := encode i, done := false, st := .faulted, fcode := 4, finfo := k.number }

/-- The frame of an issue (R267, R268, R272): BUF byte for byte, every operand register, KREG, the interrupt enables and
WERR are as before; CMD holds the command word and DONE is 0. -/
def Obligations.IssueFrame : Prop :=
  ∀ (i : Instr) (s t : State), s.st = .idle → exec i s = .next t →
    (∀ b, readByte t.buf b = readByte s.buf b) ∧
    t.width = s.width ∧ t.height = s.height ∧ t.src0 = s.src0 ∧ t.src1 = s.src1 ∧ t.src2 = s.src2 ∧ t.dst = s.dst ∧
    t.kreg = s.kreg ∧ t.ieDone = s.ieDone ∧ t.ieFault = s.ieFault ∧ t.werr = s.werr ∧ t.bufWords = s.bufWords ∧
    t.script = s.script ∧ t.sched = s.sched ∧ t.noted = s.noted ∧ t.cmd = encode i ∧ t.done = false ∧
    (t.st = .busy ∧ t.fcode = s.fcode ∧ t.finfo = s.finfo ∧ t.idx = 0 ∨
      t.st = .faulted ∧ t.snap = s.snap ∧ t.idx = s.idx ∧ 2 ≤ t.fcode.toNat ∧ t.fcode.toNat ≤ 4)

/-! ## Engine steps -/

/-- R191's engine step and its endpoint values. -/
def Obligations.RenormPixelStep : Prop :=
  (∀ (s : State) (v : Word), RunningCommand .renorm s →
    readWord s.buf (s.snap.src0.toNat + s.idx.toNat) = some v →
    exec .renorm s = .next (afterPixel s (fdiv (fadd v 0x40800000) 0x41000000))) ∧
  fdiv (fadd 0xC0800000 0x40800000) 0x41000000 = 0x00000000 ∧
  fdiv (fadd 0x40800000 0x40800000) 0x41000000 = 0x3F800000

/-- R192's engine step. -/
def Obligations.MagfPixelStep : Prop :=
  ∀ (s : State) (sx sy : Word), RunningCommand .magf s →
    readWord s.buf (s.snap.src0.toNat + s.idx.toNat) = some sx →
    readWord s.buf (s.snap.src1.toNat + s.idx.toNat) = some sy →
    exec .magf s = .next (afterPixel s (fdiv (fsqrt (fadd (fmul sx sx) (fmul sy sy))) 0x3FB4FDF4))

/-- R193's engine step. -/
def Obligations.MagxPixelStep : Prop :=
  ∀ (s : State) (sx sy : Word), RunningCommand .magx s →
    readWord s.buf (s.snap.src0.toNat + s.idx.toNat) = some sx →
    readWord s.buf (s.snap.src1.toNat + s.idx.toNat) = some sy →
    exec .magx s = .next (afterPixel s
      (fdiv
        (fsqrt (fadd (fmul (fsub sx 0x3F000000) (fsub sx 0x3F000000)) (fmul (fsub sy 0x3F000000) (fsub sy 0x3F000000))))
        0x3F34FDF4))

/-- R160 to R164 for the four convolutions: the weighted sum over exactly the neighbours that exist, each found at its
true row and column, no padding and no row-wrap. -/
def Obligations.ConvolutionPixelStep : Prop :=
  ∀ (i : Instr) (s : State) (px : Nat × Nat → Word),
    i = .convMean ∨ i = .convSx ∨ i = .convSy ∨ i = .convUsr →
    RunningCommand i s →
    let w := s.snap.w.toNat
    let h := s.snap.h.toNat
    let r := s.idx.toNat / w
    let c := s.idx.toNat % w
    (∀ t ∈ existingTaps w h r c,
      readWord s.buf (s.snap.src0.toNat + ((r + t.1 - 1) * w + (c + t.2 - 1))) = some (px t)) →
    exec i s = .next (afterPixel s (weightedSum s.snap.k px (existingTaps w h r c)))

/-- R211: a pixel of the first or last row is copied bit for bit, and nothing else is read. -/
def Obligations.NmsBorderRowsAreCopied : Prop :=
  ∀ (s : State) (m : Word), RunningCommand .nms s →
    s.idx.toNat / s.snap.w.toNat = 0 ∨ s.idx.toNat / s.snap.w.toNat = s.snap.h.toNat - 1 →
    readWord s.buf (s.snap.src2.toNat + s.idx.toNat) = some m →
    exec .nms s = .next (afterPixel s m)

/-- The bucket of a ratio by R213's chain, as the neighbour offsets of R214. -/
def nmsOffsetsOfRatio (w : Nat) (ang : Word) : Int × Int :=
  if fgt ang 0xBE8A3D71 && flt ang 0x3E8A3D71 then (-(w : Int), -(w : Int) + 1)
  else if fge ang 0x3E8A3D71 && flt ang 0x4043D70A then (-(w : Int) + 1, (w : Int) - 1)
  else if fle ang 0xBE8A3D71 && fgt ang 0xC043D70A then (-(w : Int) - 1, (w : Int) + 1)
  else (-1, 1)

/-- R212 to R217: a pixel of an inner row keeps its magnitude word when it is at least both neighbours', else becomes
+0; the neighbours stand at plain index sums. -/
def Obligations.NmsInnerRowsAreSuppressed : Prop :=
  ∀ (s : State) (sx sy m ma mb : Word) (ja jb : Nat), RunningCommand .nms s →
    0 < s.idx.toNat / s.snap.w.toNat → s.idx.toNat / s.snap.w.toNat < s.snap.h.toNat - 1 →
    readWord s.buf (s.snap.src0.toNat + s.idx.toNat) = some sx →
    readWord s.buf (s.snap.src1.toNat + s.idx.toNat) = some sy →
    (ja : Int) = s.idx.toNat +
      (nmsOffsetsOfRatio s.snap.w.toNat (fdiv (fsub sx 0x3F000000) (fsub sy 0x3F000000))).1 →
    (jb : Int) = s.idx.toNat +
      (nmsOffsetsOfRatio s.snap.w.toNat (fdiv (fsub sx 0x3F000000) (fsub sy 0x3F000000))).2 →
    ja < s.snap.n.toNat → jb < s.snap.n.toNat →
    readWord s.buf (s.snap.src2.toNat + s.idx.toNat) = some m →
    readWord s.buf (s.snap.src2.toNat + ja) = some ma →
    readWord s.buf (s.snap.src2.toNat + jb) = some mb →
    exec .nms s = .next (afterPixel s (if fge m ma = true ∧ fge m mb = true then m else 0x00000000))

/-- R216: an inner-row pixel faults exactly at (row 1, column 0) and (row H-2, column W-1) in bucket N, with its index
in FINFO and nothing written. -/
def Obligations.NmsNeighbourOutsideFaults : Prop :=
  ∀ (s : State) (sx sy : Word), RunningCommand .nms s →
    0 < s.idx.toNat / s.snap.w.toNat → s.idx.toNat / s.snap.w.toNat < s.snap.h.toNat - 1 →
    readWord s.buf (s.snap.src0.toNat + s.idx.toNat) = some sx →
    readWord s.buf (s.snap.src1.toNat + s.idx.toNat) = some sy →
    (exec .nms s = .next { s with st := .faulted, fcode := 5, finfo := s.idx } ↔
      bucketOf (fdiv (fsub sx 0x3F000000) (fsub sy 0x3F000000)) = .n ∧
      (s.idx.toNat = s.snap.w.toNat ∨ s.idx.toNat = s.snap.n.toNat - s.snap.w.toNat - 1))

/-- R219: every output word of NMS is the pixel's magnitude word or +0. -/
def Obligations.NmsOutputIsMagnitudeOrZero : Prop :=
  ∀ (s t : State), RunningCommand .nms s → exec .nms s = .next t → t.st ≠ .faulted →
    readWord t.buf (s.snap.dst.toNat + s.idx.toNat) = readWord s.buf (s.snap.src2.toNat + s.idx.toNat) ∨
    readWord t.buf (s.snap.dst.toNat + s.idx.toNat) = some 0x00000000

/-- The frame of an engine step, for all eight commands (R69, R267, R273): no register of the block but STATUS and, at
a fault, FINFO; nothing of the snapshot; of BUF only the four bytes of the output word, and none of them at a fault. -/
def Obligations.EngineStepFrame : Prop :=
  ∀ (i : Instr) (s t : State), RunningCommand i s → exec i s = .next t →
    t.snap = s.snap ∧ t.cmd = s.cmd ∧ t.width = s.width ∧ t.height = s.height ∧ t.src0 = s.src0 ∧ t.src1 = s.src1 ∧
    t.src2 = s.src2 ∧ t.dst = s.dst ∧ t.kreg = s.kreg ∧ t.ieDone = s.ieDone ∧ t.ieFault = s.ieFault ∧
    t.werr = s.werr ∧ t.bufWords = s.bufWords ∧ t.script = s.script ∧ t.sched = s.sched ∧ t.noted = s.noted ∧
    (t.st = .faulted ∧ i = .nms ∧ t.fcode = 5 ∧ t.finfo = s.idx ∧ t.idx = s.idx ∧ t.done = s.done ∧
        (∀ b, readByte t.buf b = readByte s.buf b) ∨
      t.st ≠ .faulted ∧ t.fcode = s.fcode ∧ t.finfo = s.finfo ∧ t.idx.toNat = s.idx.toNat + 1 ∧
        (t.st = .idle ↔ t.idx = s.snap.n) ∧ (t.st = .idle → t.done = true) ∧ (t.st = .busy → t.done = s.done) ∧
        ∀ b, ¬byteOfWord (s.snap.dst.toNat + s.idx.toNat) b → readByte t.buf b = readByte s.buf b)

/-- The step of `i` reads the BUF words `addrs`: if one of them has no value, the step stops the model at such a one. -/
def stopsAtUndefined (i : Instr) (s : State) (addrs : List Nat) : Prop :=
  (∃ a ∈ addrs, readWord s.buf a = none) →
    ∃ a ∈ addrs, readWord s.buf a = none ∧ exec i s = .fault (.undefinedWord a)

/-- R74's treatment of an engine read of a word nothing has written: a fault of the model (log 6), for all eight commands
and every word their step reads (R69). Which of several undefined words the fault names is left open (log 13). -/
def Obligations.UndefinedSourceWordStopsTheModel : Prop :=
  (∀ (s : State), RunningCommand .renorm s → stopsAtUndefined .renorm s [s.snap.src0.toNat + s.idx.toNat]) ∧
  (∀ (i : Instr) (s : State), i = .magf ∨ i = .magx → RunningCommand i s →
    stopsAtUndefined i s [s.snap.src0.toNat + s.idx.toNat, s.snap.src1.toNat + s.idx.toNat]) ∧
  (∀ (i : Instr) (s : State), i = .convMean ∨ i = .convSx ∨ i = .convSy ∨ i = .convUsr → RunningCommand i s →
    let w := s.snap.w.toNat
    let r := s.idx.toNat / w
    let c := s.idx.toNat % w
    stopsAtUndefined i s ((existingTaps w s.snap.h.toNat r c).map fun t =>
      s.snap.src0.toNat + ((r + t.1 - 1) * w + (c + t.2 - 1)))) ∧
  (∀ (s : State), RunningCommand .nms s →
    s.idx.toNat / s.snap.w.toNat = 0 ∨ s.idx.toNat / s.snap.w.toNat = s.snap.h.toNat - 1 →
    stopsAtUndefined .nms s [s.snap.src2.toNat + s.idx.toNat]) ∧
  (∀ (s : State), RunningCommand .nms s →
    0 < s.idx.toNat / s.snap.w.toNat → s.idx.toNat / s.snap.w.toNat < s.snap.h.toNat - 1 →
    stopsAtUndefined .nms s [s.snap.src0.toNat + s.idx.toNat, s.snap.src1.toNat + s.idx.toNat] ∧
    ∀ (sx sy : Word) (ja jb : Nat),
      readWord s.buf (s.snap.src0.toNat + s.idx.toNat) = some sx →
      readWord s.buf (s.snap.src1.toNat + s.idx.toNat) = some sy →
      (ja : Int) = s.idx.toNat +
        (nmsOffsetsOfRatio s.snap.w.toNat (fdiv (fsub sx 0x3F000000) (fsub sy 0x3F000000))).1 →
      (jb : Int) = s.idx.toNat +
        (nmsOffsetsOfRatio s.snap.w.toNat (fdiv (fsub sx 0x3F000000) (fsub sy 0x3F000000))).2 →
      ja < s.snap.n.toNat → jb < s.snap.n.toNat →
      stopsAtUndefined .nms s
        [s.snap.src2.toNat + s.idx.toNat, s.snap.src2.toNat + ja, s.snap.src2.toNat + jb])

/-- R33, R75: an engine step reads only the snapshot: with any other values in the operand registers it does the same,
and leaves those values. -/
def Obligations.EngineStepIgnoresOperandRegisters : Prop :=
  ∀ (i : Instr) (s : State) (width height : BitVec 16) (src0 src1 src2 dst : Word) (kreg : Vector Word 9) (t : State),
    RunningCommand i s → exec i s = .next t →
    exec i { s with width := width, height := height, src0 := src0, src1 := src1, src2 := src2, dst := dst, kreg := kreg }
      = .next { t with width := width, height := height, src0 := src0, src1 := src1, src2 := src2, dst := dst,
                       kreg := kreg }

/-! ## Whole commands -/

/-- R70, R273, R311: a running command at IDX = 0, none of whose pixels faults, ends after exactly L_N steps with DONE,
and each destination word is what its pixel's step alone would write from the starting BUF. -/
def Obligations.CommandWritesEveryPixel : Prop :=
  ∀ (i : Instr) (s : State), RunningCommand i s → s.idx = 0 → s.sched = [] →
    (∀ j < s.snap.n.toNat, ∃ u, exec i { s with idx := BitVec.ofNat 32 j } = .next u ∧ u.st ≠ .faulted) →
    ∃ t, Host.Core.run core s.snap.n.toNat s = .next t ∧
      t = { s with buf := t.buf, idx := s.snap.n, st := .idle, done := true } ∧
      (∀ j < s.snap.n.toNat, ∀ u, exec i { s with idx := BitVec.ofNat 32 j } = .next u →
        readWord t.buf (s.snap.dst.toNat + j) = readWord u.buf (s.snap.dst.toNat + j)) ∧
      (∀ a, inRange s.snap.dst.toNat s.snap.n.toNat a = false → readWord t.buf a = readWord s.buf a)

/-- R311: with its sources defined and no host turn scheduled, a running command ends within L_N - IDX steps, in
completion or, for NMS alone, in F_NMS_OOB. -/
def Obligations.EveryCommandEnds : Prop :=
  ∀ (i : Instr) (s : State), RunningCommand i s → s.sched = [] → SourcesDefined i s →
    ∃ k t, k ≤ s.snap.n.toNat - s.idx.toNat ∧ Host.Core.run core k s = .next t ∧
      (t.st = .idle ∧ t.done = true ∧ t.idx = s.snap.n ∧ k = s.snap.n.toNat - s.idx.toNat ∨
        t.st = .faulted ∧ t.fcode = 5 ∧ i = .nms ∧ t.finfo = t.idx)

/-- Every step keeps the invariant of `CoreInv`. -/
def Obligations.StepKeepsInvariant : Prop :=
  ∀ (s t : State), CoreInv s → step s = .next t → CoreInv t

/-- The invariant holds after reset. -/
def Obligations.ResetHasInvariant : Prop := CoreInv State.reset

/-- R40: BUF_WORDS is a parameter; it stands in State by the model's choice (log 4), and no step changes it. -/
def Obligations.BufWordsNeverChanges : Prop :=
  ∀ (s t : State), step s = .next t → t.bufWords = s.bufWords

/-- R61: under the invariant the engine never reaches outside BUF; the only stop of a step is an undefined word or a host
write into a live range. -/
def Obligations.EngineStaysInsideBuf : Prop :=
  ∀ (s : State), CoreInv s →
    (∀ f, step s = .fault f → ∃ a, f = .undefinedWord a ∧ a < s.bufWords ∧ readWord s.buf a = none) ∧
    (∀ r, step s = .refused r → s.st = .busy ∧
      ∃ a, (r = .hostWritesLiveSource a ∧ inLiveSource s a = true) ∨
        (r = .hostWritesLiveDestination a ∧ inLiveDestination s a = true))

/-! ## Modes, faults and reset -/

/-- R32: the transitions of ST and what causes each: the host's write of CMD (R303: CORE starts no command on its own),
the engine's step, a reset by the host. There is no other. -/
def Obligations.ModeTransitions : Prop :=
  ∀ (s t : State), CoreInv s → step s = .next t → s.st ≠ t.st →
    (s.st = .idle ∧ t.st = .busy ∧ nextAgent s = .host ∧
      (∃ i rest, s.script = .writeReg 32 0x0C (encode i) :: rest ∧ t.cmd = encode i ∧ RunningCommand i t) ∧
      t.idx = 0) ∨
    (s.st = .idle ∧ t.st = .faulted ∧ nextAgent s = .host ∧
      (∃ w rest, s.script = .writeReg 32 0x0C w :: rest ∧ t.cmd = w) ∧ 1 ≤ t.fcode.toNat ∧ t.fcode.toNat ≤ 4) ∨
    (s.st = .busy ∧ t.st = .idle ∧ nextAgent s = .engine ∧ t.done = true ∧ t.idx = s.snap.n) ∨
    (s.st = .busy ∧ t.st = .faulted ∧ nextAgent s = .engine ∧ latched s = .command .nms ∧ t.fcode = 5) ∨
    (t.st = .idle ∧ nextAgent s = .host ∧
      ∃ op rest, s.script = op :: rest ∧
        (op = .hardwareReset ∨ ∃ v, op = .writeReg 32 0x04 v ∧ v.getLsbD 0 = true))

/-- R269: in FAULTED nothing but a reset changes ST, FCODE, FINFO, IDX, the snapshot or CMD, and a write of CMD only sets
WERR. -/
def Obligations.FaultIsSticky : Prop :=
  ∀ (s t : State), s.st = .faulted → step s = .next t →
    (t.st = .faulted ∧ t.fcode = s.fcode ∧ t.finfo = s.finfo ∧ t.idx = s.idx ∧ t.snap = s.snap ∧ t.cmd = s.cmd) ∨
    (t.st = .idle ∧ t.fcode = 0 ∧ t.finfo = 0 ∧ nextAgent s = .host ∧
      ∃ op rest, s.script = op :: rest ∧
        (op = .hardwareReset ∨ ∃ v, op = .writeReg 32 0x04 v ∧ v.getLsbD 0 = true))

/-- R267, R268: a step that takes a fault changes ST, FCODE and FINFO, at an issue also CMD and DONE (R272), and nothing
else of CORE: BUF keeps every byte. -/
def Obligations.FaultsArePrecise : Prop :=
  ∀ (s t : State), s.st ≠ .faulted → step s = .next t → t.st = .faulted →
    (∀ b, readByte t.buf b = readByte s.buf b) ∧ t.idx = s.idx ∧ t.snap = s.snap ∧ t.width = s.width ∧
    t.height = s.height ∧ t.src0 = s.src0 ∧ t.src1 = s.src1 ∧ t.src2 = s.src2 ∧ t.dst = s.dst ∧ t.kreg = s.kreg ∧
    t.ieDone = s.ieDone ∧ t.ieFault = s.ieFault ∧ t.werr = s.werr ∧
    (s.st = .busy → t.cmd = s.cmd ∧ t.done = s.done ∧ t.finfo = s.idx ∧ t.fcode = 5) ∧
    (s.st = .idle → t.done = false ∧ 1 ≤ t.fcode.toNat ∧ t.fcode.toNat ≤ 4)

/-- R38: the command write is the one register write that depends on the mode: accepted in IDLE (CMD holds the word),
refused in the other modes with WERR and nothing else; every other write is accepted and does the same in every mode. -/
def Obligations.CommandWriteRefusedUnlessIdle : Prop :=
  (∀ (s : State) (w : Word), s.st = .idle → ∃ t, hostWriteReg 32 0x0C w s = .next t ∧ t.cmd = w ∧ t.werr = s.werr) ∧
  (∀ (s : State) (w : Word), s.st ≠ .idle → hostWriteReg 32 0x0C w s = .next { s with werr := true }) ∧
  (∀ (s : State) (r : Reg) (v : Word), r ≠ .cmd → hostWriteReg 32 (regOffset r) v s = .next (regWrite r v s)) ∧
  (∀ (s : State) (r : Reg) (v : Word) (m : Mode), r ≠ .cmd → r ≠ .ctrl →
    regWrite r v { s with st := m } = { regWrite r v s with st := m })

/-- R301: hardware reset as a host step, in every mode. That the host's script, turns and notes and BUF_WORDS go on past
it is the model's choice (log 16), and that an unspecified word of BUF has no value is its reading of R74 (log 6). -/
def Obligations.HardwareResetClearsEverything : Prop :=
  ∀ (s : State) (rest : List Stmt), nextAgent s = .host → s.script = .hardwareReset :: rest →
    ∃ t, step s = .next t ∧
      t = { t with
        ieDone := false, ieFault := false, done := false, werr := false, fcode := 0, cmd := 0, width := 0, height := 0,
        src0 := 0, src1 := 0, src2 := 0, dst := 0, finfo := 0, kreg := #v[0, 0, 0, 0, 0, 0, 0, 0, 0], st := .idle,
        snap := { op := 0, ksel := 0, w := 0, h := 0, n := 0, src0 := 0, src1 := 0, src2 := 0, dst := 0,
                  k := #v[0, 0, 0, 0, 0, 0, 0, 0, 0] },
        idx := 0, bufWords := s.bufWords, script := rest, sched := s.sched.tail, noted := s.noted } ∧
      (∀ a, readWord t.buf a = none) ∧ (∀ r, r ≠ .id → regRead r t = 0) ∧ regRead .id t = 0x43334531 ∧ irq t = false

/-- R302: soft reset, in every mode and whatever bits 31:1: all of hardware reset but BUF. -/
def Obligations.SoftResetKeepsBuf : Prop :=
  ∀ (s : State) (v : Word), v.getLsbD 0 = true →
    ∃ t, hostWriteReg 32 0x04 v s = .next t ∧
      t = { s with
        ieDone := false, ieFault := false, done := false, werr := false, fcode := 0, cmd := 0, width := 0, height := 0,
        src0 := 0, src1 := 0, src2 := 0, dst := 0, finfo := 0, kreg := #v[0, 0, 0, 0, 0, 0, 0, 0, 0], st := .idle,
        snap := { op := 0, ksel := 0, w := 0, h := 0, n := 0, src0 := 0, src1 := 0, src2 := 0, dst := 0,
                  k := #v[0, 0, 0, 0, 0, 0, 0, 0, 0] },
        idx := 0 } ∧
      (∀ a, readWord t.buf a = readWord s.buf a) ∧ (∀ r, r ≠ .id → regRead r t = 0) ∧ regRead .id t = 0x43334531 ∧
      irq t = false

/-- R39 at the machine's reset state. -/
def Obligations.ResetValues : Prop :=
  (∀ r, r ≠ .id → regRead r State.reset = 0) ∧ regRead .id State.reset = 0x43334531 ∧ State.reset.st = .idle ∧
  State.reset.idx = 0 ∧ irq State.reset = false ∧ (∀ a, readWord State.reset.buf a = none) ∧
  State.reset.snap.op = 0 ∧ State.reset.snap.ksel = 0 ∧ State.reset.snap.w = 0 ∧ State.reset.snap.h = 0 ∧
  State.reset.snap.n = 0 ∧ State.reset.snap.src0 = 0 ∧ State.reset.snap.src1 = 0 ∧ State.reset.snap.src2 = 0 ∧
  State.reset.snap.dst = 0 ∧ ∀ j : Fin 9, State.reset.snap.k[j.val] = 0

/-! ## Registers -/

/-- R22. -/
def Obligations.IdIsConstant : Prop :=
  ∀ (s : State) (v : Word), hostReadReg 32 0x00 s = { s with noted := .value 0x43334531 :: s.noted } ∧
    hostWriteReg 32 0x00 v s = .next s

/-- R24: the layout of STATUS and, under the invariant, the reachable combinations of BUSY, DONE, FAULT. -/
def Obligations.StatusWordLayout : Prop :=
  (∀ (s : State), (statusWord s).getLsbD 0 = decide (s.st = .busy) ∧ (statusWord s).getLsbD 1 = s.done ∧
    (statusWord s).getLsbD 2 = decide (s.st = .faulted) ∧ (statusWord s).getLsbD 3 = s.werr ∧
    (statusWord s).extractLsb 7 4 = 0 ∧ (statusWord s).extractLsb 15 8 = s.fcode ∧
    (statusWord s).extractLsb 31 16 = 0) ∧
  (∀ (s : State), CoreInv s → ((statusWord s).extractLsb 2 0 : BitVec 3) ∈ [0b000, 0b001, 0b010, 0b100])

/-- R275, R23, R24: what a write at each offset does, in every mode. -/
def Obligations.RegisterWriteTable : Prop :=
  ∀ (s : State) (v : Word),
    hostWriteReg 32 0x00 v s = .next s ∧ hostWriteReg 32 0x28 v s = .next s ∧
    (v.getLsbD 0 = true → hostWriteReg 32 0x04 v s = .next (softReset s)) ∧
    (v.getLsbD 0 = false →
      hostWriteReg 32 0x04 v s = .next { s with ieDone := v.getLsbD 1, ieFault := v.getLsbD 2 }) ∧
    hostWriteReg 32 0x08 v s = .next { s with
      done := if v.getLsbD 1 then false else s.done, werr := if v.getLsbD 3 then false else s.werr } ∧
    (∀ i, s.st = .idle → decode v = .command i → hostWriteReg 32 0x0C v s = exec i s) ∧
    (∀ why, s.st = .idle → decode v = .illegal why → hostWriteReg 32 0x0C v s =
      .next { s with cmd := v, done := false, st := .faulted, fcode := 1, finfo := v }) ∧
    (s.st ≠ .idle → hostWriteReg 32 0x0C v s = .next { s with werr := true }) ∧
    hostWriteReg 32 0x10 v s = .next { s with width := v.extractLsb 15 0 } ∧
    hostWriteReg 32 0x14 v s = .next { s with height := v.extractLsb 15 0 } ∧
    hostWriteReg 32 0x18 v s = .next { s with src0 := v } ∧ hostWriteReg 32 0x1C v s = .next { s with src1 := v } ∧
    hostWriteReg 32 0x20 v s = .next { s with src2 := v } ∧ hostWriteReg 32 0x24 v s = .next { s with dst := v } ∧
    (∀ n : Fin 9, hostWriteReg 32 (0x40 + 4 * n.val) v s = .next { s with kreg := s.kreg.set n.val v }) ∧
    (∀ o, o % 4 = 0 → (0x2C ≤ o ∧ o ≤ 0x3C) ∨ (0x64 ≤ o ∧ o ≤ 0xFC) → hostWriteReg 32 o v s = .next s)

/-- R26 to R28, R30: a written operand register reads back its stored bits, and no other register changes. -/
def Obligations.OperandRegistersReadBack : Prop :=
  ∀ (s : State) (v : Word) (r q : Reg), r ≠ .id → r ≠ .ctrl → r ≠ .status → r ≠ .cmd → r ≠ .finfo →
    regRead r (regWrite r v s) = (if r = .width ∨ r = .height then v &&& 0x0000FFFF else v) ∧
    (q ≠ r → regRead q (regWrite r v s) = regRead q s)

/-- R37: reserved offsets and reserved bits. -/
def Obligations.ReservedReadsZeroWritesIgnored : Prop :=
  (∀ (s : State) (v : Word) (o : Nat), o % 4 = 0 → (0x2C ≤ o ∧ o ≤ 0x3C) ∨ (0x64 ≤ o ∧ o ≤ 0xFC) →
    hostReadReg 32 o s = { s with noted := .value 0 :: s.noted } ∧ hostWriteReg 32 o v s = .next s) ∧
  (∀ (s : State), (ctrlWord s) &&& 0xFFFFFFF9 = 0 ∧ (statusWord s) &&& 0xFFFF00F0 = 0 ∧
    (regRead .width s) &&& 0xFFFF0000 = 0 ∧ (regRead .height s) &&& 0xFFFF0000 = 0) ∧
  (∀ (s : State) (v : Word), regWrite .ctrl v s = regWrite .ctrl (v &&& 0x00000007) s ∧
    regWrite .status v s = regWrite .status (v &&& 0x0000000A) s ∧
    regWrite .width v s = regWrite .width (v &&& 0x0000FFFF) s ∧
    regWrite .height v s = regWrite .height (v &&& 0x0000FFFF) s)

/-- R274: what a host read at each offset answers, in every mode; nothing but the script's note changes. The layout of
STATUS is `StatusWordLayout`. -/
def Obligations.RegisterReadHasNoSideEffect : Prop :=
  ∀ (s : State),
    hostReadReg 32 0x00 s = { s with noted := .value 0x43334531 :: s.noted } ∧
    hostReadReg 32 0x04 s = { s with noted := .value (ctrlWord s) :: s.noted } ∧
    hostReadReg 32 0x08 s = { s with noted := .value (statusWord s) :: s.noted } ∧
    hostReadReg 32 0x0C s = { s with noted := .value s.cmd :: s.noted } ∧
    hostReadReg 32 0x10 s = { s with noted := .value (s.width.setWidth 32) :: s.noted } ∧
    hostReadReg 32 0x14 s = { s with noted := .value (s.height.setWidth 32) :: s.noted } ∧
    hostReadReg 32 0x18 s = { s with noted := .value s.src0 :: s.noted } ∧
    hostReadReg 32 0x1C s = { s with noted := .value s.src1 :: s.noted } ∧
    hostReadReg 32 0x20 s = { s with noted := .value s.src2 :: s.noted } ∧
    hostReadReg 32 0x24 s = { s with noted := .value s.dst :: s.noted } ∧
    hostReadReg 32 0x28 s = { s with noted := .value s.finfo :: s.noted } ∧
    (∀ n : Fin 9, hostReadReg 32 (0x40 + 4 * n.val) s = { s with noted := .value s.kreg[n.val] :: s.noted }) ∧
    (∀ o, o % 4 = 0 → (0x2C ≤ o ∧ o ≤ 0x3C) ∨ (0x64 ≤ o ∧ o ≤ 0xFC) →
      hostReadReg 32 o s = { s with noted := .value 0 :: s.noted }) ∧
    (∀ r : Reg, hostReadReg 32 (regOffset r) s = { s with noted := .value (regRead r s) :: s.noted }) ∧
    (ctrlWord s).getLsbD 0 = false ∧ (ctrlWord s).getLsbD 1 = s.ieDone ∧ (ctrlWord s).getLsbD 2 = s.ieFault ∧
    (ctrlWord s).extractLsb 31 3 = 0

/-- R36, R271: the interrupt level. -/
def Obligations.InterruptLevel : Prop :=
  (∀ (s : State), irq s = (((statusWord s).getLsbD 1 && (ctrlWord s).getLsbD 1) ||
    ((statusWord s).getLsbD 2 && (ctrlWord s).getLsbD 2))) ∧
  irq State.reset = false ∧
  (∀ (s : State), irq (softReset s) = false ∧ irq (hardwareReset s) = false) ∧
  (∀ (s : State) (v : Word), v.getLsbD 1 = true → s.st ≠ .faulted → irq (writeStatus v s) = false) ∧
  (∀ (s : State) (v : Word), v.getLsbD 0 = false → v.getLsbD 1 = false → v.getLsbD 2 = false →
    irq (writeCtrl v s) = false)

/-- R65: an access that is not a whole aligned word inside the two spaces changes no CORE state and returns no value;
the host notes that it was refused (log 9). -/
def Obligations.IllFormedAccessIsRefused : Prop :=
  ∀ (s : State) (op : Stmt) (rest : List Stmt), nextAgent s = .host → s.script = op :: rest →
    op.wf s.bufWords = false →
    step s = .next { s with script := rest, sched := s.sched.tail, noted := .refused :: s.noted }

/-! ## BUF and the host -/

/-- R66, R71: a BUF word the host writes outside the live ranges reads back, and every other word and byte is as before. -/
def Obligations.HostBufWriteReadsBack : Prop :=
  ∀ (s : State) (a : Nat) (v : Word), a < s.bufWords → inLiveDestination s a = false → inLiveSource s a = false →
    ∃ t, hostWriteBuf 32 a v s = .next t ∧ t = { s with buf := t.buf } ∧
      hostReadBuf 32 a t = { t with noted := .value v :: t.noted } ∧
      (∀ a', a' ≠ a → readWord t.buf a' = readWord s.buf a') ∧
      ∀ b, ¬byteOfWord a b → readByte t.buf b = readByte s.buf b

/-- R72, R305 HP1 to HP3: while BUSY a host write into a live source or destination range has no move, and a host read of
the live destination answers no defined value (log 7, log 8). -/
def Obligations.LiveRangesAreTheEngines : Prop :=
  ∀ (i : Instr) (s : State) (k : Src) (j : Nat) (v : Word), RunningCommand i s → j < s.snap.n.toNat →
    hostWriteBuf 32 (s.snap.dst.toNat + j) v s = .refused (.hostWritesLiveDestination (s.snap.dst.toNat + j)) ∧
    hostReadBuf 32 (s.snap.dst.toNat + j) s = { s with noted := .unspecified :: s.noted } ∧
    (k ∈ usedSources i → hostWriteBuf 32 ((latchedSrc s.snap k).toNat + j) v s =
      .refused (.hostWritesLiveSource ((latchedSrc s.snap k).toNat + j)))

/-- R96, R312: a `wait` polls while BUSY = 1 and goes on at BUSY = 0. -/
def Obligations.WaitPollsUntilNotBusy : Prop :=
  ∀ (s : State) (rest : List Stmt), nextAgent s = .host → s.script = .wait :: rest →
    (s.st = .busy → step s = .next { s with sched := s.sched.tail, noted := .value (statusWord s) :: s.noted }) ∧
    (s.st ≠ .busy →
      step s = .next { s with script := rest, sched := s.sched.tail, noted := .value (statusWord s) :: s.noted })

/-- R241: after the wait of an EDGE expansion, a host that sees STATUS.FAULT = 1 leaves out the rest of it (`rest`
statements; log 10), one that sees FAULT = 0 goes on. -/
def Obligations.PipelineStopsOnFault : Prop :=
  ∀ (s : State) (n : Nat) (rest : List Stmt), nextAgent s = .host → s.script = .waitOrStop n :: rest →
    (s.st = .faulted → step s = .next { s with
      script := rest.drop n, sched := s.sched.tail, noted := .value (statusWord s) :: s.noted }) ∧
    (s.st = .idle → step s = .next { s with
      script := rest, sched := s.sched.tail, noted := .value (statusWord s) :: s.noted }) ∧
    (s.st = .busy → step s = .next { s with sched := s.sched.tail, noted := .value (statusWord s) :: s.noted })

/-- R312: with the script finished and no command running, the machine waits: a step changes nothing. -/
def Obligations.IdleMachineWaits : Prop :=
  ∀ (s : State), s.st ≠ .busy → s.script = [] → s.sched = [] → step s = .next s

/-- R34: IDX changes only to 0, or by one at an engine step. -/
def Obligations.IndexOnlyAdvances : Prop :=
  ∀ (s t : State), CoreInv s → step s = .next t →
    t.idx = s.idx ∨ t.idx = 0 ∨
      (s.st = .busy ∧ nextAgent s = .engine ∧ t.idx.toNat = s.idx.toNat + 1 ∧ t.idx.toNat ≤ s.snap.n.toNat)

/-! ## Arithmetic -/

/-- R122: addition and subtraction. -/
def Obligations.AdditionIsCorrect : Prop :=
  (∀ (x y : Word), IsNaN x ∨ IsNaN y → fadd x y = 0x7FC00000 ∧ fsub x y = 0x7FC00000) ∧
  fadd 0x7F800000 0xFF800000 = 0x7FC00000 ∧ fadd 0xFF800000 0x7F800000 = 0x7FC00000 ∧
  (∀ (x y : Word), IsInf x → IsFinite y ∨ y = x → fadd x y = x ∧ fadd y x = x) ∧
  (∀ (x y : Word), IsFinite x → IsFinite y → value x + value y = 0 →
    fadd x y = if x = 0x80000000 ∧ y = 0x80000000 then 0x80000000 else 0x00000000) ∧
  (∀ (x y : Word), IsFinite x → IsFinite y → RoundsTo (value x + value y) (fadd x y)) ∧
  (∀ (x y : Word), ¬IsNaN y → fsub x y = fadd x (y ^^^ 0x80000000))

/-- R123: multiplication. -/
def Obligations.MultiplicationIsCorrect : Prop :=
  (∀ (x y : Word), IsNaN x ∨ IsNaN y → fmul x y = 0x7FC00000) ∧
  (∀ (x y : Word), IsInf x → IsFinite y → value y = 0 → fmul x y = 0x7FC00000 ∧ fmul y x = 0x7FC00000) ∧
  (∀ (x y : Word), IsInf x → ¬IsNaN y → ¬(IsFinite y ∧ value y = 0) →
    fmul x y = (if isNeg x = isNeg y then 0x7F800000 else 0xFF800000) ∧ fmul y x = fmul x y) ∧
  (∀ (x y : Word), IsFinite x → IsFinite y →
    RoundsTo (value x * value y) (fmul x y) ∧ isNeg (fmul x y) = (isNeg x != isNeg y))

/-- R124: division. -/
def Obligations.DivisionIsCorrect : Prop :=
  (∀ (x y : Word), IsNaN x ∨ IsNaN y → fdiv x y = 0x7FC00000) ∧
  (∀ (x y : Word), IsFinite x → IsFinite y → value x = 0 → value y = 0 → fdiv x y = 0x7FC00000) ∧
  (∀ (x y : Word), IsInf x → IsInf y → fdiv x y = 0x7FC00000) ∧
  (∀ (x y : Word), IsFinite x → IsFinite y → value x ≠ 0 → value y = 0 →
    fdiv x y = if isNeg x = isNeg y then 0x7F800000 else 0xFF800000) ∧
  (∀ (x y : Word), IsFinite x → IsInf y → fdiv x y = if isNeg x = isNeg y then 0x00000000 else 0x80000000) ∧
  (∀ (x y : Word), IsInf x → IsFinite y → fdiv x y = if isNeg x = isNeg y then 0x7F800000 else 0xFF800000) ∧
  (∀ (x y : Word), IsFinite x → IsFinite y → value x = 0 → value y ≠ 0 →
    fdiv x y = if isNeg x = isNeg y then 0x00000000 else 0x80000000) ∧
  (∀ (x y : Word), IsFinite x → IsFinite y → value y ≠ 0 →
    RoundsTo (value x / value y) (fdiv x y) ∧ isNeg (fdiv x y) = (isNeg x != isNeg y))

/-- R125: square root. -/
def Obligations.SquareRootIsCorrect : Prop :=
  fsqrt 0x00000000 = 0x00000000 ∧ fsqrt 0x80000000 = 0x80000000 ∧ fsqrt 0x7F800000 = 0x7F800000 ∧
  fsqrt 0xFF800000 = 0x7FC00000 ∧
  (∀ (x : Word), IsNaN x → fsqrt x = 0x7FC00000) ∧
  (∀ (x : Word), IsFinite x → value x < 0 → fsqrt x = 0x7FC00000) ∧
  (∀ (x : Word), IsFinite x → 0 < value x →
    IsFinite (fsqrt x) ∧ isNeg (fsqrt x) = false ∧
    ∀ z' : Word, IsFinite z' →
      |(value (fsqrt x) : ℝ) - Real.sqrt (value x)| ≤ |(value z' : ℝ) - Real.sqrt (value x)| ∧
      (|(value z' : ℝ) - Real.sqrt (value x)| = |(value (fsqrt x) : ℝ) - Real.sqrt (value x)| →
        value z' = value (fsqrt x) ∨ (fsqrt x).toNat % 2 = 0)) ∧
  (∀ (x y : Word), fadd (fmul x x) (fmul y y) = 0x7FC00000 ∨ isNeg (fadd (fmul x x) (fmul y y)) = false)

/-- R126: the comparisons. -/
def Obligations.ComparisonsAreExact : Prop :=
  (∀ (x y : Word), IsNaN x ∨ IsNaN y → flt x y = false ∧ fle x y = false ∧ fgt x y = false ∧ fge x y = false) ∧
  (∀ (x y : Word), IsFinite x → IsFinite y →
    flt x y = decide (value x < value y) ∧ fle x y = decide (value x ≤ value y) ∧
    fgt x y = decide (value y < value x) ∧ fge x y = decide (value y ≤ value x)) ∧
  (∀ (x : Word), IsFinite x →
    flt x 0x7F800000 = true ∧ flt 0xFF800000 x = true ∧ flt 0x7F800000 x = false ∧ flt x 0xFF800000 = false ∧
    fle x 0x7F800000 = true ∧ fle 0xFF800000 x = true ∧ fle 0x7F800000 x = false ∧ fle x 0xFF800000 = false ∧
    fgt 0x7F800000 x = true ∧ fgt x 0xFF800000 = true ∧ fgt x 0x7F800000 = false ∧ fgt 0xFF800000 x = false ∧
    fge 0x7F800000 x = true ∧ fge x 0xFF800000 = true ∧ fge x 0x7F800000 = false ∧ fge 0xFF800000 x = false) ∧
  flt 0xFF800000 0xFF800000 = false ∧ flt 0xFF800000 0x7F800000 = true ∧
  flt 0x7F800000 0xFF800000 = false ∧ flt 0x7F800000 0x7F800000 = false ∧
  fle 0xFF800000 0xFF800000 = true ∧ fle 0xFF800000 0x7F800000 = true ∧
  fle 0x7F800000 0xFF800000 = false ∧ fle 0x7F800000 0x7F800000 = true ∧
  fgt 0xFF800000 0xFF800000 = false ∧ fgt 0xFF800000 0x7F800000 = false ∧
  fgt 0x7F800000 0xFF800000 = true ∧ fgt 0x7F800000 0x7F800000 = false ∧
  fge 0xFF800000 0xFF800000 = true ∧ fge 0xFF800000 0x7F800000 = false ∧
  fge 0x7F800000 0xFF800000 = true ∧ fge 0x7F800000 0x7F800000 = true ∧
  fge 0x80000000 0x00000000 = true ∧ fge 0x00000000 0x80000000 = true ∧ flt 0x80000000 0x00000000 = false

/-- R127: the one NaN of every arithmetic primitive. -/
def Obligations.EveryNaNResultIsCanonical : Prop :=
  ∀ (x y : Word),
    (IsNaN (fadd x y) → fadd x y = 0x7FC00000) ∧ (IsNaN (fsub x y) → fsub x y = 0x7FC00000) ∧
    (IsNaN (fmul x y) → fmul x y = 0x7FC00000) ∧ (IsNaN (fdiv x y) → fdiv x y = 0x7FC00000) ∧
    (IsNaN (fsqrt x) → fsqrt x = 0x7FC00000)

/-- R164's remark: the order of the operands of a product and of a sum does not change a result. -/
def Obligations.SumAndProductCommute : Prop :=
  ∀ (x y : Word), fadd x y = fadd y x ∧ fmul x y = fmul y x

/-- R192, R193: neither magnitude is ever negative, and so never -0. -/
def Obligations.MagnitudesAreNeverNegative : Prop :=
  ∀ (sx sy : Word), isNeg (magfWord sx sy) = false ∧ isNeg (magxWord sx sy) = false

/-! ## Convolution geometry and NMS buckets -/

/-- R161 to R163, R171: the class table keeps exactly the taps whose neighbour exists, at its true place in [0, N), four
of them at a corner, six at an edge, nine inside. -/
def Obligations.TapsAreTheExistingNeighbours : Prop :=
  ∀ (w h r c : Nat), 2 ≤ w → 2 ≤ h → r < h → c < w →
    taps (classOf w h r c) = existingTaps w h r c ∧
    (∀ t ∈ taps (classOf w h r c),
      neighbour w (r * w + c) t = (((r + t.1 - 1) * w + (c + t.2 - 1) : Nat) : Int) ∧
      (r + t.1 - 1) * w + (c + t.2 - 1) < w * h) ∧
    (taps (classOf w h r c)).length =
      (if r = 0 ∨ r = h - 1 then 2 else 3) * (if c = 0 ∨ c = w - 1 then 2 else 3)

/-- R213: the chain's buckets by their bounds, with -0.27, 0.27, -3.06 and 3.06 the constants of R10; NaN and both
infinities are in H. -/
def Obligations.BucketsByBounds : Prop :=
  (∀ (ang : Word), IsNaN ang ∨ IsInf ang → bucketOf ang = .h) ∧
  (∀ (ang : Word), IsFinite ang →
    (bucketOf ang = .z ↔ -value 0x3E8A3D71 < value ang ∧ value ang < value 0x3E8A3D71) ∧
    (bucketOf ang = .p ↔ value 0x3E8A3D71 ≤ value ang ∧ value ang < value 0x4043D70A) ∧
    (bucketOf ang = .n ↔ -value 0x4043D70A < value ang ∧ value ang ≤ -value 0x3E8A3D71) ∧
    (bucketOf ang = .h ↔ value 0x4043D70A ≤ value ang ∨ value ang ≤ -value 0x4043D70A))

/-- R173 at the source's own value: nine neighbours of 0.5 under the Sobel kernels sum to exactly +0. -/
def Obligations.UniformHalfHasNoInteriorGradient : Prop :=
  ∀ (px : Nat × Nat → Word), (∀ t, px t = 0x3F000000) →
    weightedSum romSobelX px (existingTaps 3 3 1 1) = 0x00000000 ∧
    weightedSum romSobelY px (existingTaps 3 3 1 1) = 0x00000000
end

