-- ==== Sys2Proof/Laws/Memory.lean ====
section
/-! SUPPORT. What the BUF operations do: a read after a write, everything else left alone, the canonical form kept. -/

namespace Sys2Proof.Machine

/-! ## Bytes -/

@[simp] theorem readByte_nil (a : Nat) : readByte [] a = none := rfl

@[simp] theorem readByte_cons (c : Host.Cell) (m : Memory) (a : Nat) :
    readByte (c :: m) a = if c.1 = a then some c.2 else readByte m a := rfl

theorem writeByte_before {c : Host.Cell} (m : Memory) {a : Nat} (b : Byte) (h : a < c.1) :
    writeByte (c :: m) a b = (a, b) :: c :: m := by
  simp [writeByte, h]

theorem writeByte_here {c : Host.Cell} (m : Memory) {a : Nat} (b : Byte) (h : a = c.1) :
    writeByte (c :: m) a b = (a, b) :: m := by
  simp [writeByte, h]

theorem writeByte_after {c : Host.Cell} (m : Memory) {a : Nat} (b : Byte) (h : c.1 < a) :
    writeByte (c :: m) a b = c :: writeByte m a b := by
  simp [writeByte, Nat.not_lt.mpr h.le, h.ne']

@[simp] theorem readByte_writeByte_self (m : Memory) (a : Nat) (b : Byte) : readByte (writeByte m a b) a = some b := by
  induction m with
  | nil => simp [writeByte]
  | cons c m ih =>
    rcases Nat.lt_trichotomy a c.1 with h | h | h
    · simp [writeByte_before m b h]
    · simp [writeByte_here m b h]
    · simp [writeByte_after m b h, h.ne, ih]

theorem readByte_writeByte_of_ne (m : Memory) {a a' : Nat} (b : Byte) (h : a' ≠ a) :
    readByte (writeByte m a b) a' = readByte m a' := by
  induction m with
  | nil => simp [writeByte, h.symm]
  | cons c m ih =>
    rcases Nat.lt_trichotomy a c.1 with h1 | h1 | h1
    · simp [writeByte_before m b h1, h.symm]
    · simp [writeByte_here m b h1, h.symm, ← h1]
    · simp [writeByte_after m b h1, ih]

/-- A write lists no address but its own beside those listed before. -/
theorem mem_writeByte {m : Memory} {a : Nat} {b : Byte} {c : Host.Cell} (h : c ∈ writeByte m a b) :
    c ∈ m ∨ c = (a, b) := by
  induction m with
  | nil => simpa [writeByte] using h
  | cons d m ih =>
    rcases Nat.lt_trichotomy a d.1 with h1 | h1 | h1
    · rw [writeByte_before m b h1] at h
      rcases List.mem_cons.mp h with h | h
      · exact .inr h
      · exact .inl h
    · rw [writeByte_here m b h1] at h
      rcases List.mem_cons.mp h with h | h
      · exact .inr h
      · exact .inl (List.mem_cons_of_mem _ h)
    · rw [writeByte_after m b h1] at h
      rcases List.mem_cons.mp h with h | h
      · exact .inl (h ▸ List.mem_cons_self)
      · exact (ih h).imp (List.mem_cons_of_mem _) id

/-! ## The canonical form -/

/-- The canonical form as Mathlib's sortedness of the addresses. -/
theorem wf_iff_sorted (m : Memory) : Memory.wf m = true ↔ (m.map Prod.fst).Pairwise (· < ·) := by
  induction m with
  | nil => simp [Memory.wf]
  | cons c m ih =>
    cases m with
    | nil => simp [Memory.wf]
    | cons d m =>
      have hp : (List.map Prod.fst (c :: d :: m)).Pairwise (· < ·) ↔
          c.1 < d.1 ∧ (List.map Prod.fst (d :: m)).Pairwise (· < ·) := by
        simp only [List.map_cons, List.pairwise_cons, List.mem_cons]
        constructor
        · rintro ⟨h1, h2, h3⟩
          exact ⟨h1 _ (.inl rfl), h2, h3⟩
        · rintro ⟨h1, h2, h3⟩
          refine ⟨?_, h2, h3⟩
          rintro x (rfl | hx)
          · exact h1
          · exact lt_trans h1 (h2 _ hx)
      rw [hp, ← ih]
      simp [Memory.wf]

theorem writeByte_wf {m : Memory} (a : Nat) (b : Byte) (h : Memory.wf m = true) :
    Memory.wf (writeByte m a b) = true := by
  rw [wf_iff_sorted] at h ⊢
  induction m with
  | nil => simp [writeByte]
  | cons c m ih =>
    simp only [List.map_cons, List.pairwise_cons] at h
    rcases Nat.lt_trichotomy a c.1 with h1 | h1 | h1
    · simp only [writeByte_before m b h1, List.map_cons, List.pairwise_cons, List.mem_cons]
      refine ⟨?_, h.1, h.2⟩
      rintro x (rfl | hx)
      · exact h1
      · exact lt_trans h1 (h.1 _ hx)
    · simp only [writeByte_here m b h1, List.map_cons, List.pairwise_cons]
      exact ⟨h1 ▸ h.1, h.2⟩
    · simp only [writeByte_after m b h1, List.map_cons, List.pairwise_cons]
      refine ⟨?_, ih h.2⟩
      intro x hx
      obtain ⟨d, hd, rfl⟩ := List.mem_map.mp hx
      rcases mem_writeByte hd with hd | rfl
      · exact h.1 _ (List.mem_map.mpr ⟨d, hd, rfl⟩)
      · exact h1

/-! ## Words -/

theorem writeWord_wf {m : Memory} (a : Nat) (v : Word) (h : Memory.wf m = true) :
    Memory.wf (writeWord m a v) = true :=
  writeByte_wf _ _ (writeByte_wf _ _ (writeByte_wf _ _ (writeByte_wf _ _ h)))

/-- A word write leaves every byte outside its four alone. -/
theorem readByte_writeWord_outside (m : Memory) (a b : Nat) (v : Word) (h : b < 4 * a ∨ 4 * a + 4 ≤ b) :
    readByte (writeWord m a v) b = readByte m b := by
  unfold writeWord
  rw [readByte_writeByte_of_ne _ _ (by omega), readByte_writeByte_of_ne _ _ (by omega),
    readByte_writeByte_of_ne _ _ (by omega), readByte_writeByte_of_ne _ _ (by omega)]

/-- Four bytes in a row are the word they were cut from. -/
theorem bytes_append (v : Word) :
    ((v.extractLsb 31 24 ++ v.extractLsb 23 16 ++ v.extractLsb 15 8 ++ v.extractLsb 7 0 : Word)) = v := by
  unfold BitVec.extractLsb
  rw [BitVec.extractLsb'_append_extractLsb'_eq_extractLsb' (by omega),
    BitVec.extractLsb'_append_extractLsb'_eq_extractLsb' (by omega),
    BitVec.extractLsb'_append_extractLsb'_eq_extractLsb' (by omega)]
  exact BitVec.extractLsb'_eq_self

@[simp] theorem readWord_writeWord_self (m : Memory) (a : Nat) (v : Word) :
    readWord (writeWord m a v) a = some v := by
  have h0 : readByte (writeWord m a v) (4 * a) = some (v.extractLsb 7 0) := by
    unfold writeWord
    rw [readByte_writeByte_of_ne _ _ (by omega), readByte_writeByte_of_ne _ _ (by omega),
      readByte_writeByte_of_ne _ _ (by omega), readByte_writeByte_self]
  have h1 : readByte (writeWord m a v) (4 * a + 1) = some (v.extractLsb 15 8) := by
    unfold writeWord
    rw [readByte_writeByte_of_ne _ _ (by omega), readByte_writeByte_of_ne _ _ (by omega), readByte_writeByte_self]
  have h2 : readByte (writeWord m a v) (4 * a + 2) = some (v.extractLsb 23 16) := by
    unfold writeWord
    rw [readByte_writeByte_of_ne _ _ (by omega), readByte_writeByte_self]
  have h3 : readByte (writeWord m a v) (4 * a + 3) = some (v.extractLsb 31 24) := by
    unfold writeWord
    rw [readByte_writeByte_self]
  unfold readWord
  rw [h0, h1, h2, h3]
  exact congrArg some (bytes_append v)

theorem readWord_writeWord_of_ne (m : Memory) {a a' : Nat} (v : Word) (h : a' ≠ a) :
    readWord (writeWord m a v) a' = readWord m a' := by
  unfold readWord
  rw [readByte_writeWord_outside _ _ _ _ (by omega), readByte_writeWord_outside _ _ _ _ (by omega),
    readByte_writeWord_outside _ _ _ _ (by omega), readByte_writeWord_outside _ _ _ _ (by omega)]

/-- Every address a word write lists was listed before or is one of its four bytes. -/
theorem mem_writeWord {m : Memory} {a : Nat} {v : Word} {c : Host.Cell} (h : c ∈ writeWord m a v) :
    c ∈ m ∨ (4 * a ≤ c.1 ∧ c.1 < 4 * a + 4) := by
  unfold writeWord at h
  rcases mem_writeByte h with h | rfl
  · rcases mem_writeByte h with h | rfl
    · rcases mem_writeByte h with h | rfl
      · rcases mem_writeByte h with h | rfl
        · exact .inl h
        · exact .inr ⟨Nat.le_refl _, by simp⟩
      · exact .inr ⟨by simp, by simp⟩
    · exact .inr ⟨by simp, by simp⟩
  · exact .inr ⟨by simp, by simp⟩

/-- A word with a defined value keeps one. -/
theorem readWord_writeWord_isSome {m : Memory} {a' : Nat} (a : Nat) (v : Word) (h : (readWord m a').isSome) :
    (readWord (writeWord m a v) a').isSome := by
  by_cases e : a' = a
  · simp [e]
  · rw [readWord_writeWord_of_ne _ _ e]
    exact h

/-- BUF after reset is in canonical form. -/
theorem reset_buf_wf : Memory.wf State.reset.buf = true := rfl

/-! ## The engine's read (R61) -/

/-- Everything `engineRead` can do. -/
theorem engineRead_cases (s : State) (addr : Int) :
    (∃ a : Nat, ∃ v, addr = a ∧ a < s.bufWords ∧ readWord s.buf a = some v ∧ engineRead s addr = .ok v) ∨
    (∃ a : Nat, addr = a ∧ a < s.bufWords ∧ readWord s.buf a = none ∧
      engineRead s addr = .error (.undefinedWord a)) ∨
    ((addr < 0 ∨ (s.bufWords : Int) ≤ addr) ∧ engineRead s addr = .error (.noSuchWord addr)) := by
  unfold engineRead
  by_cases h : addr < 0 ∨ (s.bufWords : Int) ≤ addr
  · exact .inr (.inr ⟨h, by simp [h]⟩)
  · have ha : addr = (addr.toNat : Int) := by omega
    have hb : addr.toNat < s.bufWords := by omega
    cases hr : readWord s.buf addr.toNat with
    | none => exact .inr (.inl ⟨addr.toNat, ha, hb, hr, by simp [h]⟩)
    | some v => exact .inl ⟨addr.toNat, v, ha, hb, hr, by simp [h]⟩

/-- A word of BUF that has a value reads as it. -/
theorem engineRead_ok {s : State} {a : Nat} {v : Word} (h : a < s.bufWords) (hr : readWord s.buf a = some v) :
    engineRead s (a : Int) = .ok v := by
  unfold engineRead
  simp [hr, h]

end Sys2Proof.Machine
end

