-- ==== Sys2Proof/Laws/State.lean ====
section
/-! SUPPORT. One lemma per field per state update, so that no later proof unfolds a record update. -/

namespace Sys2Proof.Machine

/-! ## raise -/

@[simp] theorem raise_ieDone (f : CoreFault) (info : Word) (s : State) : (raise f info s).ieDone = s.ieDone := rfl
@[simp] theorem raise_ieFault (f : CoreFault) (info : Word) (s : State) : (raise f info s).ieFault = s.ieFault := rfl
@[simp] theorem raise_done (f : CoreFault) (info : Word) (s : State) : (raise f info s).done = s.done := rfl
@[simp] theorem raise_werr (f : CoreFault) (info : Word) (s : State) : (raise f info s).werr = s.werr := rfl
@[simp] theorem raise_fcode (f : CoreFault) (info : Word) (s : State) : (raise f info s).fcode = f.code := rfl
@[simp] theorem raise_cmd (f : CoreFault) (info : Word) (s : State) : (raise f info s).cmd = s.cmd := rfl
@[simp] theorem raise_width (f : CoreFault) (info : Word) (s : State) : (raise f info s).width = s.width := rfl
@[simp] theorem raise_height (f : CoreFault) (info : Word) (s : State) : (raise f info s).height = s.height := rfl
@[simp] theorem raise_src0 (f : CoreFault) (info : Word) (s : State) : (raise f info s).src0 = s.src0 := rfl
@[simp] theorem raise_src1 (f : CoreFault) (info : Word) (s : State) : (raise f info s).src1 = s.src1 := rfl
@[simp] theorem raise_src2 (f : CoreFault) (info : Word) (s : State) : (raise f info s).src2 = s.src2 := rfl
@[simp] theorem raise_dst (f : CoreFault) (info : Word) (s : State) : (raise f info s).dst = s.dst := rfl
@[simp] theorem raise_finfo (f : CoreFault) (info : Word) (s : State) : (raise f info s).finfo = info := rfl
@[simp] theorem raise_kreg (f : CoreFault) (info : Word) (s : State) : (raise f info s).kreg = s.kreg := rfl
@[simp] theorem raise_st (f : CoreFault) (info : Word) (s : State) : (raise f info s).st = .faulted := rfl
@[simp] theorem raise_snap (f : CoreFault) (info : Word) (s : State) : (raise f info s).snap = s.snap := rfl
@[simp] theorem raise_idx (f : CoreFault) (info : Word) (s : State) : (raise f info s).idx = s.idx := rfl
@[simp] theorem raise_buf (f : CoreFault) (info : Word) (s : State) : (raise f info s).buf = s.buf := rfl
@[simp] theorem raise_bufWords (f : CoreFault) (info : Word) (s : State) : (raise f info s).bufWords = s.bufWords := rfl
@[simp] theorem raise_script (f : CoreFault) (info : Word) (s : State) : (raise f info s).script = s.script := rfl
@[simp] theorem raise_sched (f : CoreFault) (info : Word) (s : State) : (raise f info s).sched = s.sched := rfl
@[simp] theorem raise_noted (f : CoreFault) (info : Word) (s : State) : (raise f info s).noted = s.noted := rfl

/-! ## refuseCommand -/

@[simp] theorem refuseCommand_ieDone (s : State) : (refuseCommand s).ieDone = s.ieDone := rfl
@[simp] theorem refuseCommand_ieFault (s : State) : (refuseCommand s).ieFault = s.ieFault := rfl
@[simp] theorem refuseCommand_done (s : State) : (refuseCommand s).done = s.done := rfl
@[simp] theorem refuseCommand_werr (s : State) : (refuseCommand s).werr = true := rfl
@[simp] theorem refuseCommand_fcode (s : State) : (refuseCommand s).fcode = s.fcode := rfl
@[simp] theorem refuseCommand_cmd (s : State) : (refuseCommand s).cmd = s.cmd := rfl
@[simp] theorem refuseCommand_width (s : State) : (refuseCommand s).width = s.width := rfl
@[simp] theorem refuseCommand_height (s : State) : (refuseCommand s).height = s.height := rfl
@[simp] theorem refuseCommand_src0 (s : State) : (refuseCommand s).src0 = s.src0 := rfl
@[simp] theorem refuseCommand_src1 (s : State) : (refuseCommand s).src1 = s.src1 := rfl
@[simp] theorem refuseCommand_src2 (s : State) : (refuseCommand s).src2 = s.src2 := rfl
@[simp] theorem refuseCommand_dst (s : State) : (refuseCommand s).dst = s.dst := rfl
@[simp] theorem refuseCommand_finfo (s : State) : (refuseCommand s).finfo = s.finfo := rfl
@[simp] theorem refuseCommand_kreg (s : State) : (refuseCommand s).kreg = s.kreg := rfl
@[simp] theorem refuseCommand_st (s : State) : (refuseCommand s).st = s.st := rfl
@[simp] theorem refuseCommand_snap (s : State) : (refuseCommand s).snap = s.snap := rfl
@[simp] theorem refuseCommand_idx (s : State) : (refuseCommand s).idx = s.idx := rfl
@[simp] theorem refuseCommand_buf (s : State) : (refuseCommand s).buf = s.buf := rfl
@[simp] theorem refuseCommand_bufWords (s : State) : (refuseCommand s).bufWords = s.bufWords := rfl
@[simp] theorem refuseCommand_script (s : State) : (refuseCommand s).script = s.script := rfl
@[simp] theorem refuseCommand_sched (s : State) : (refuseCommand s).sched = s.sched := rfl
@[simp] theorem refuseCommand_noted (s : State) : (refuseCommand s).noted = s.noted := rfl

/-! ## softReset -/

@[simp] theorem softReset_ieDone (s : State) : (softReset s).ieDone = false := rfl
@[simp] theorem softReset_ieFault (s : State) : (softReset s).ieFault = false := rfl
@[simp] theorem softReset_done (s : State) : (softReset s).done = false := rfl
@[simp] theorem softReset_werr (s : State) : (softReset s).werr = false := rfl
@[simp] theorem softReset_fcode (s : State) : (softReset s).fcode = 0 := rfl
@[simp] theorem softReset_cmd (s : State) : (softReset s).cmd = 0 := rfl
@[simp] theorem softReset_width (s : State) : (softReset s).width = 0 := rfl
@[simp] theorem softReset_height (s : State) : (softReset s).height = 0 := rfl
@[simp] theorem softReset_src0 (s : State) : (softReset s).src0 = 0 := rfl
@[simp] theorem softReset_src1 (s : State) : (softReset s).src1 = 0 := rfl
@[simp] theorem softReset_src2 (s : State) : (softReset s).src2 = 0 := rfl
@[simp] theorem softReset_dst (s : State) : (softReset s).dst = 0 := rfl
@[simp] theorem softReset_finfo (s : State) : (softReset s).finfo = 0 := rfl
@[simp] theorem softReset_kreg (s : State) : (softReset s).kreg = Vector.replicate 9 0 := rfl
@[simp] theorem softReset_st (s : State) : (softReset s).st = .idle := rfl
@[simp] theorem softReset_snap (s : State) : (softReset s).snap = Snapshot.reset := rfl
@[simp] theorem softReset_idx (s : State) : (softReset s).idx = 0 := rfl
@[simp] theorem softReset_buf (s : State) : (softReset s).buf = s.buf := rfl
@[simp] theorem softReset_bufWords (s : State) : (softReset s).bufWords = s.bufWords := rfl
@[simp] theorem softReset_script (s : State) : (softReset s).script = s.script := rfl
@[simp] theorem softReset_sched (s : State) : (softReset s).sched = s.sched := rfl
@[simp] theorem softReset_noted (s : State) : (softReset s).noted = s.noted := rfl

/-! ## hardwareReset -/

@[simp] theorem hardwareReset_ieDone (s : State) : (hardwareReset s).ieDone = false := rfl
@[simp] theorem hardwareReset_ieFault (s : State) : (hardwareReset s).ieFault = false := rfl
@[simp] theorem hardwareReset_done (s : State) : (hardwareReset s).done = false := rfl
@[simp] theorem hardwareReset_werr (s : State) : (hardwareReset s).werr = false := rfl
@[simp] theorem hardwareReset_fcode (s : State) : (hardwareReset s).fcode = 0 := rfl
@[simp] theorem hardwareReset_cmd (s : State) : (hardwareReset s).cmd = 0 := rfl
@[simp] theorem hardwareReset_width (s : State) : (hardwareReset s).width = 0 := rfl
@[simp] theorem hardwareReset_height (s : State) : (hardwareReset s).height = 0 := rfl
@[simp] theorem hardwareReset_src0 (s : State) : (hardwareReset s).src0 = 0 := rfl
@[simp] theorem hardwareReset_src1 (s : State) : (hardwareReset s).src1 = 0 := rfl
@[simp] theorem hardwareReset_src2 (s : State) : (hardwareReset s).src2 = 0 := rfl
@[simp] theorem hardwareReset_dst (s : State) : (hardwareReset s).dst = 0 := rfl
@[simp] theorem hardwareReset_finfo (s : State) : (hardwareReset s).finfo = 0 := rfl
@[simp] theorem hardwareReset_kreg (s : State) : (hardwareReset s).kreg = Vector.replicate 9 0 := rfl
@[simp] theorem hardwareReset_st (s : State) : (hardwareReset s).st = .idle := rfl
@[simp] theorem hardwareReset_snap (s : State) : (hardwareReset s).snap = Snapshot.reset := rfl
@[simp] theorem hardwareReset_idx (s : State) : (hardwareReset s).idx = 0 := rfl
@[simp] theorem hardwareReset_buf (s : State) : (hardwareReset s).buf = [] := rfl
@[simp] theorem hardwareReset_bufWords (s : State) : (hardwareReset s).bufWords = s.bufWords := rfl
@[simp] theorem hardwareReset_script (s : State) : (hardwareReset s).script = s.script := rfl
@[simp] theorem hardwareReset_sched (s : State) : (hardwareReset s).sched = s.sched := rfl
@[simp] theorem hardwareReset_noted (s : State) : (hardwareReset s).noted = s.noted := rfl

/-! ## note -/

@[simp] theorem note_ieDone (r : Reply) (s : State) : (note r s).ieDone = s.ieDone := rfl
@[simp] theorem note_ieFault (r : Reply) (s : State) : (note r s).ieFault = s.ieFault := rfl
@[simp] theorem note_done (r : Reply) (s : State) : (note r s).done = s.done := rfl
@[simp] theorem note_werr (r : Reply) (s : State) : (note r s).werr = s.werr := rfl
@[simp] theorem note_fcode (r : Reply) (s : State) : (note r s).fcode = s.fcode := rfl
@[simp] theorem note_cmd (r : Reply) (s : State) : (note r s).cmd = s.cmd := rfl
@[simp] theorem note_width (r : Reply) (s : State) : (note r s).width = s.width := rfl
@[simp] theorem note_height (r : Reply) (s : State) : (note r s).height = s.height := rfl
@[simp] theorem note_src0 (r : Reply) (s : State) : (note r s).src0 = s.src0 := rfl
@[simp] theorem note_src1 (r : Reply) (s : State) : (note r s).src1 = s.src1 := rfl
@[simp] theorem note_src2 (r : Reply) (s : State) : (note r s).src2 = s.src2 := rfl
@[simp] theorem note_dst (r : Reply) (s : State) : (note r s).dst = s.dst := rfl
@[simp] theorem note_finfo (r : Reply) (s : State) : (note r s).finfo = s.finfo := rfl
@[simp] theorem note_kreg (r : Reply) (s : State) : (note r s).kreg = s.kreg := rfl
@[simp] theorem note_st (r : Reply) (s : State) : (note r s).st = s.st := rfl
@[simp] theorem note_snap (r : Reply) (s : State) : (note r s).snap = s.snap := rfl
@[simp] theorem note_idx (r : Reply) (s : State) : (note r s).idx = s.idx := rfl
@[simp] theorem note_buf (r : Reply) (s : State) : (note r s).buf = s.buf := rfl
@[simp] theorem note_bufWords (r : Reply) (s : State) : (note r s).bufWords = s.bufWords := rfl
@[simp] theorem note_script (r : Reply) (s : State) : (note r s).script = s.script := rfl
@[simp] theorem note_sched (r : Reply) (s : State) : (note r s).sched = s.sched := rfl
@[simp] theorem note_noted (r : Reply) (s : State) : (note r s).noted = r :: s.noted := rfl

/-! ## popTurn -/

@[simp] theorem popTurn_ieDone (s : State) : (popTurn s).ieDone = s.ieDone := rfl
@[simp] theorem popTurn_ieFault (s : State) : (popTurn s).ieFault = s.ieFault := rfl
@[simp] theorem popTurn_done (s : State) : (popTurn s).done = s.done := rfl
@[simp] theorem popTurn_werr (s : State) : (popTurn s).werr = s.werr := rfl
@[simp] theorem popTurn_fcode (s : State) : (popTurn s).fcode = s.fcode := rfl
@[simp] theorem popTurn_cmd (s : State) : (popTurn s).cmd = s.cmd := rfl
@[simp] theorem popTurn_width (s : State) : (popTurn s).width = s.width := rfl
@[simp] theorem popTurn_height (s : State) : (popTurn s).height = s.height := rfl
@[simp] theorem popTurn_src0 (s : State) : (popTurn s).src0 = s.src0 := rfl
@[simp] theorem popTurn_src1 (s : State) : (popTurn s).src1 = s.src1 := rfl
@[simp] theorem popTurn_src2 (s : State) : (popTurn s).src2 = s.src2 := rfl
@[simp] theorem popTurn_dst (s : State) : (popTurn s).dst = s.dst := rfl
@[simp] theorem popTurn_finfo (s : State) : (popTurn s).finfo = s.finfo := rfl
@[simp] theorem popTurn_kreg (s : State) : (popTurn s).kreg = s.kreg := rfl
@[simp] theorem popTurn_st (s : State) : (popTurn s).st = s.st := rfl
@[simp] theorem popTurn_snap (s : State) : (popTurn s).snap = s.snap := rfl
@[simp] theorem popTurn_idx (s : State) : (popTurn s).idx = s.idx := rfl
@[simp] theorem popTurn_buf (s : State) : (popTurn s).buf = s.buf := rfl
@[simp] theorem popTurn_bufWords (s : State) : (popTurn s).bufWords = s.bufWords := rfl
@[simp] theorem popTurn_script (s : State) : (popTurn s).script = s.script := rfl
@[simp] theorem popTurn_sched (s : State) : (popTurn s).sched = s.sched.tail := rfl
@[simp] theorem popTurn_noted (s : State) : (popTurn s).noted = s.noted := rfl

/-! ## acceptCommand -/

@[simp] theorem acceptCommand_ieDone (w : Word) (s : State) : (acceptCommand w s).ieDone = s.ieDone := rfl
@[simp] theorem acceptCommand_ieFault (w : Word) (s : State) : (acceptCommand w s).ieFault = s.ieFault := rfl
@[simp] theorem acceptCommand_done (w : Word) (s : State) : (acceptCommand w s).done = false := rfl
@[simp] theorem acceptCommand_werr (w : Word) (s : State) : (acceptCommand w s).werr = s.werr := rfl
@[simp] theorem acceptCommand_fcode (w : Word) (s : State) : (acceptCommand w s).fcode = s.fcode := rfl
@[simp] theorem acceptCommand_cmd (w : Word) (s : State) : (acceptCommand w s).cmd = w := rfl
@[simp] theorem acceptCommand_width (w : Word) (s : State) : (acceptCommand w s).width = s.width := rfl
@[simp] theorem acceptCommand_height (w : Word) (s : State) : (acceptCommand w s).height = s.height := rfl
@[simp] theorem acceptCommand_src0 (w : Word) (s : State) : (acceptCommand w s).src0 = s.src0 := rfl
@[simp] theorem acceptCommand_src1 (w : Word) (s : State) : (acceptCommand w s).src1 = s.src1 := rfl
@[simp] theorem acceptCommand_src2 (w : Word) (s : State) : (acceptCommand w s).src2 = s.src2 := rfl
@[simp] theorem acceptCommand_dst (w : Word) (s : State) : (acceptCommand w s).dst = s.dst := rfl
@[simp] theorem acceptCommand_finfo (w : Word) (s : State) : (acceptCommand w s).finfo = s.finfo := rfl
@[simp] theorem acceptCommand_kreg (w : Word) (s : State) : (acceptCommand w s).kreg = s.kreg := rfl
@[simp] theorem acceptCommand_st (w : Word) (s : State) : (acceptCommand w s).st = s.st := rfl
@[simp] theorem acceptCommand_snap (w : Word) (s : State) : (acceptCommand w s).snap = s.snap := rfl
@[simp] theorem acceptCommand_idx (w : Word) (s : State) : (acceptCommand w s).idx = s.idx := rfl
@[simp] theorem acceptCommand_buf (w : Word) (s : State) : (acceptCommand w s).buf = s.buf := rfl
@[simp] theorem acceptCommand_bufWords (w : Word) (s : State) : (acceptCommand w s).bufWords = s.bufWords := rfl
@[simp] theorem acceptCommand_script (w : Word) (s : State) : (acceptCommand w s).script = s.script := rfl
@[simp] theorem acceptCommand_sched (w : Word) (s : State) : (acceptCommand w s).sched = s.sched := rfl
@[simp] theorem acceptCommand_noted (w : Word) (s : State) : (acceptCommand w s).noted = s.noted := rfl

/-! ## launch -/

@[simp] theorem launch_ieDone (i : Instr) (s : State) : (launch i s).ieDone = s.ieDone := rfl
@[simp] theorem launch_ieFault (i : Instr) (s : State) : (launch i s).ieFault = s.ieFault := rfl
@[simp] theorem launch_done (i : Instr) (s : State) : (launch i s).done = s.done := rfl
@[simp] theorem launch_werr (i : Instr) (s : State) : (launch i s).werr = s.werr := rfl
@[simp] theorem launch_fcode (i : Instr) (s : State) : (launch i s).fcode = s.fcode := rfl
@[simp] theorem launch_cmd (i : Instr) (s : State) : (launch i s).cmd = s.cmd := rfl
@[simp] theorem launch_width (i : Instr) (s : State) : (launch i s).width = s.width := rfl
@[simp] theorem launch_height (i : Instr) (s : State) : (launch i s).height = s.height := rfl
@[simp] theorem launch_src0 (i : Instr) (s : State) : (launch i s).src0 = s.src0 := rfl
@[simp] theorem launch_src1 (i : Instr) (s : State) : (launch i s).src1 = s.src1 := rfl
@[simp] theorem launch_src2 (i : Instr) (s : State) : (launch i s).src2 = s.src2 := rfl
@[simp] theorem launch_dst (i : Instr) (s : State) : (launch i s).dst = s.dst := rfl
@[simp] theorem launch_finfo (i : Instr) (s : State) : (launch i s).finfo = s.finfo := rfl
@[simp] theorem launch_kreg (i : Instr) (s : State) : (launch i s).kreg = s.kreg := rfl
@[simp] theorem launch_st (i : Instr) (s : State) : (launch i s).st = .busy := rfl
@[simp] theorem launch_snap (i : Instr) (s : State) : (launch i s).snap = snapshotOf i s := rfl
@[simp] theorem launch_idx (i : Instr) (s : State) : (launch i s).idx = 0 := rfl
@[simp] theorem launch_buf (i : Instr) (s : State) : (launch i s).buf = s.buf := rfl
@[simp] theorem launch_bufWords (i : Instr) (s : State) : (launch i s).bufWords = s.bufWords := rfl
@[simp] theorem launch_script (i : Instr) (s : State) : (launch i s).script = s.script := rfl
@[simp] theorem launch_sched (i : Instr) (s : State) : (launch i s).sched = s.sched := rfl
@[simp] theorem launch_noted (i : Instr) (s : State) : (launch i s).noted = s.noted := rfl

/-! ## commitPixel -/

@[simp] theorem commitPixel_ieDone (v : Word) (s : State) : (commitPixel v s).ieDone = s.ieDone := rfl
@[simp] theorem commitPixel_ieFault (v : Word) (s : State) : (commitPixel v s).ieFault = s.ieFault := rfl
@[simp] theorem commitPixel_done (v : Word) (s : State) : (commitPixel v s).done = if s.idx + 1 = s.snap.n then true else s.done := rfl
@[simp] theorem commitPixel_werr (v : Word) (s : State) : (commitPixel v s).werr = s.werr := rfl
@[simp] theorem commitPixel_fcode (v : Word) (s : State) : (commitPixel v s).fcode = s.fcode := rfl
@[simp] theorem commitPixel_cmd (v : Word) (s : State) : (commitPixel v s).cmd = s.cmd := rfl
@[simp] theorem commitPixel_width (v : Word) (s : State) : (commitPixel v s).width = s.width := rfl
@[simp] theorem commitPixel_height (v : Word) (s : State) : (commitPixel v s).height = s.height := rfl
@[simp] theorem commitPixel_src0 (v : Word) (s : State) : (commitPixel v s).src0 = s.src0 := rfl
@[simp] theorem commitPixel_src1 (v : Word) (s : State) : (commitPixel v s).src1 = s.src1 := rfl
@[simp] theorem commitPixel_src2 (v : Word) (s : State) : (commitPixel v s).src2 = s.src2 := rfl
@[simp] theorem commitPixel_dst (v : Word) (s : State) : (commitPixel v s).dst = s.dst := rfl
@[simp] theorem commitPixel_finfo (v : Word) (s : State) : (commitPixel v s).finfo = s.finfo := rfl
@[simp] theorem commitPixel_kreg (v : Word) (s : State) : (commitPixel v s).kreg = s.kreg := rfl
@[simp] theorem commitPixel_st (v : Word) (s : State) : (commitPixel v s).st = if s.idx + 1 = s.snap.n then .idle else s.st := rfl
@[simp] theorem commitPixel_snap (v : Word) (s : State) : (commitPixel v s).snap = s.snap := rfl
@[simp] theorem commitPixel_idx (v : Word) (s : State) : (commitPixel v s).idx = s.idx + 1 := rfl
@[simp] theorem commitPixel_buf (v : Word) (s : State) : (commitPixel v s).buf = writeWord s.buf (s.snap.dst.toNat + s.idx.toNat) v := rfl
@[simp] theorem commitPixel_bufWords (v : Word) (s : State) : (commitPixel v s).bufWords = s.bufWords := rfl
@[simp] theorem commitPixel_script (v : Word) (s : State) : (commitPixel v s).script = s.script := rfl
@[simp] theorem commitPixel_sched (v : Word) (s : State) : (commitPixel v s).sched = s.sched := rfl
@[simp] theorem commitPixel_noted (v : Word) (s : State) : (commitPixel v s).noted = s.noted := rfl

/-! ## writeStatus -/

@[simp] theorem writeStatus_ieDone (v : Word) (s : State) : (writeStatus v s).ieDone = s.ieDone := rfl
@[simp] theorem writeStatus_ieFault (v : Word) (s : State) : (writeStatus v s).ieFault = s.ieFault := rfl
@[simp] theorem writeStatus_done (v : Word) (s : State) : (writeStatus v s).done = (s.done && !v.getLsbD 1) := rfl
@[simp] theorem writeStatus_werr (v : Word) (s : State) : (writeStatus v s).werr = (s.werr && !v.getLsbD 3) := rfl
@[simp] theorem writeStatus_fcode (v : Word) (s : State) : (writeStatus v s).fcode = s.fcode := rfl
@[simp] theorem writeStatus_cmd (v : Word) (s : State) : (writeStatus v s).cmd = s.cmd := rfl
@[simp] theorem writeStatus_width (v : Word) (s : State) : (writeStatus v s).width = s.width := rfl
@[simp] theorem writeStatus_height (v : Word) (s : State) : (writeStatus v s).height = s.height := rfl
@[simp] theorem writeStatus_src0 (v : Word) (s : State) : (writeStatus v s).src0 = s.src0 := rfl
@[simp] theorem writeStatus_src1 (v : Word) (s : State) : (writeStatus v s).src1 = s.src1 := rfl
@[simp] theorem writeStatus_src2 (v : Word) (s : State) : (writeStatus v s).src2 = s.src2 := rfl
@[simp] theorem writeStatus_dst (v : Word) (s : State) : (writeStatus v s).dst = s.dst := rfl
@[simp] theorem writeStatus_finfo (v : Word) (s : State) : (writeStatus v s).finfo = s.finfo := rfl
@[simp] theorem writeStatus_kreg (v : Word) (s : State) : (writeStatus v s).kreg = s.kreg := rfl
@[simp] theorem writeStatus_st (v : Word) (s : State) : (writeStatus v s).st = s.st := rfl
@[simp] theorem writeStatus_snap (v : Word) (s : State) : (writeStatus v s).snap = s.snap := rfl
@[simp] theorem writeStatus_idx (v : Word) (s : State) : (writeStatus v s).idx = s.idx := rfl
@[simp] theorem writeStatus_buf (v : Word) (s : State) : (writeStatus v s).buf = s.buf := rfl
@[simp] theorem writeStatus_bufWords (v : Word) (s : State) : (writeStatus v s).bufWords = s.bufWords := rfl
@[simp] theorem writeStatus_script (v : Word) (s : State) : (writeStatus v s).script = s.script := rfl
@[simp] theorem writeStatus_sched (v : Word) (s : State) : (writeStatus v s).sched = s.sched := rfl
@[simp] theorem writeStatus_noted (v : Word) (s : State) : (writeStatus v s).noted = s.noted := rfl

end Sys2Proof.Machine
end

