-- ==== Sys2Proof/Laws/Command.lean ====
section
/-! SUPPORT. What an issue, an engine step and `exec` can do, each said once. -/

namespace Sys2Proof.Machine

/-! ## Issue -/

theorem inBuf_iff (m b n : Nat) : inBuf m b n = true ↔ b + n ≤ m := by simp [inBuf]

theorem overlaps_iff (b1 b2 n : Nat) : overlaps b1 b2 n = true ↔ b1 < b2 + n ∧ b2 < b1 + n := by simp [overlaps]

/-- The checks pass exactly when the operands are legal. -/
theorem issueCheck_eq_none_iff (i : Instr) (s : State) : issueCheck i s = none ↔ OperandsLegal i s := by
  unfold issueCheck
  constructor
  · intro h
    simp only at h
    split at h
    · cases h
    next hd =>
      split at h
      · cases h
      next hr =>
        split at h
        next hdst =>
          split at h
          · cases h
          next ho =>
            rw [inBuf_iff] at hdst
            refine ⟨by omega, by omega, ?_, hdst, ?_⟩
            · intro k hk
              have := List.find?_eq_none.mp hr k hk
              simpa [inBuf, pixelCount] using this
            · intro k hk hov
              exact List.find?_eq_none.mp ho k hk ((overlaps_iff _ _ _).mpr hov)
        · cases h
  · intro h
    have hd : ¬(s.width.toNat < 2 ∨ s.height.toNat < 2) := by
      have := h.width_two
      have := h.height_two
      omega
    have hr : (usedSources i).find?
        (fun k => !inBuf s.bufWords (srcReg s k).toNat (s.width.toNat * s.height.toNat)) = none := by
      rw [List.find?_eq_none]
      intro k hk
      simpa [inBuf, pixelCount] using h.sources_inside k hk
    have hdst : inBuf s.bufWords s.dst.toNat (s.width.toNat * s.height.toNat) = true :=
      (inBuf_iff _ _ _).mpr h.destination_inside
    have ho : (usedSources i).find?
        (fun k => overlaps (srcReg s k).toNat s.dst.toNat (s.width.toNat * s.height.toNat)) = none := by
      rw [List.find?_eq_none]
      intro k hk hov
      exact h.no_overlap k hk ((overlaps_iff _ _ _).mp hov)
    simp only [hd, if_false, hr, hdst, if_true, ho]

/-- The only faults of a decoded issue (R266). -/
theorem issueCheck_fault {i : Instr} {s : State} {f : CoreFault} {info : Word} (h : issueCheck i s = some (f, info)) :
    f = .dim ∨ f = .range ∨ f = .overlap := by
  unfold issueCheck at h
  simp only at h
  split at h
  · cases h; exact .inl rfl
  · split at h
    · cases h; exact .inr (.inl rfl)
    · split at h
      · split at h
        · cases h; exact .inr (.inr rfl)
        · cases h
      · cases h; exact .inr (.inl rfl)

/-- Everything an issue can do: fault entry, or launch. -/
theorem issue_cases (i : Instr) (s : State) :
    (∃ f info, issueCheck i (acceptCommand (encode i) s) = some (f, info) ∧
      issue i s = raise f info (acceptCommand (encode i) s)) ∨
    (OperandsLegal i (acceptCommand (encode i) s) ∧ issue i s = launch i (acceptCommand (encode i) s)) := by
  unfold issue
  cases h : issueCheck i (acceptCommand (encode i) s) with
  | none => exact .inr ⟨(issueCheck_eq_none_iff _ _).mp h, rfl⟩
  | some p => exact .inl ⟨p.1, p.2, rfl, rfl⟩

theorem decode_latched_fields (i : Instr) :
    decode (packFormat { zero := 0, ksel := (fieldsOf i).ksel, op := (fieldsOf i).op }) = .command i := by
  cases i <;> decide

/-- What a launch leaves in the snapshot is the command launched. -/
@[simp] theorem latched_launch (i : Instr) (s : State) : latched (launch i s) = .command i :=
  decode_latched_fields i

/-- The latched command depends only on L_OP and L_KSEL. -/
theorem latched_congr {s t : State} (h : t.snap = s.snap) : latched t = latched s := by
  unfold latched
  rw [h]

/-! ## Engine step -/

/-- The pixel function of each command. -/
def pixelFn : Instr → State → Pixel
  | .convMean => convPixel
  | .convSx => convPixel
  | .convSy => convPixel
  | .convUsr => convPixel
  | .renorm => renormPixel
  | .magf => magfPixel
  | .magx => magxPixel
  | .nms => nmsPixel

/-- Every arm of `exec` is `command` with its pixel function. -/
theorem exec_eq_command (i : Instr) (s : State) : exec i s = command i (pixelFn i) s := by
  cases i <;> rfl

theorem exec_idle {i : Instr} {s : State} (h : s.st = .idle) : exec i s = .next (issue i s) := by
  rw [exec_eq_command, command, h]

theorem exec_busy {i : Instr} {s : State} (h : s.st = .busy) (hl : latched s = .command i) :
    exec i s = engineStep (pixelFn i) s := by
  rw [exec_eq_command, command, h]
  simp [hl]

theorem exec_faulted {i : Instr} {s : State} (h : s.st = .faulted) : exec i s = .next (refuseCommand s) := by
  rw [exec_eq_command, command, h]

/-- Everything an engine step can do. -/
theorem engineStep_cases (pixel : State → Pixel) (s : State) :
    (∃ v, pixel s = .word v ∧ s.snap.dst.toNat + s.idx.toNat < s.bufWords ∧
      engineStep pixel s = .next (commitPixel v s)) ∨
    (pixel s = .nmsOob ∧ engineStep pixel s = .next (raise .nmsOob s.idx s)) ∨
    (∃ f, engineStep pixel s = .fault f ∧
      (pixel s = .stop f ∨ (s.bufWords ≤ s.snap.dst.toNat + s.idx.toNat ∧
        f = .noSuchWord (s.snap.dst.toNat + s.idx.toNat)))) := by
  unfold engineStep
  cases h : pixel s with
  | word v =>
    by_cases hb : s.snap.dst.toNat + s.idx.toNat < s.bufWords
    · exact .inl ⟨v, rfl, hb, by simp [hb]⟩
    · exact .inr (.inr ⟨_, by simp [hb], .inr ⟨by omega, rfl⟩⟩)
  | nmsOob => exact .inr (.inl ⟨rfl, rfl⟩)
  | stop f => exact .inr (.inr ⟨f, rfl, .inl rfl⟩)

/-- Everything `exec` can answer with a next state. -/
theorem exec_next_cases {i : Instr} {s t : State} (h : exec i s = .next t) :
    (s.st = .idle ∧ t = issue i s) ∨
    (s.st = .busy ∧ latched s = .command i ∧
      ((∃ v, pixelFn i s = .word v ∧ s.snap.dst.toNat + s.idx.toNat < s.bufWords ∧ t = commitPixel v s) ∨
        (pixelFn i s = .nmsOob ∧ t = raise .nmsOob s.idx s))) ∨
    (s.st ≠ .idle ∧ t = refuseCommand s) := by
  cases hs : s.st with
  | idle =>
    rw [exec_idle hs] at h
    exact .inl ⟨rfl, (Host.Outcome.next.inj h).symm⟩
  | faulted =>
    rw [exec_faulted hs] at h
    exact .inr (.inr ⟨by simp, (Host.Outcome.next.inj h).symm⟩)
  | busy =>
    by_cases hl : latched s = .command i
    · rw [exec_busy hs hl] at h
      refine .inr (.inl ⟨rfl, hl, ?_⟩)
      rcases engineStep_cases (pixelFn i) s with ⟨v, hv, hb, he⟩ | ⟨hp, he⟩ | ⟨f, he, _⟩
      · rw [he] at h
        exact .inl ⟨v, hv, hb, (Host.Outcome.next.inj h).symm⟩
      · rw [he] at h
        exact .inr ⟨hp, (Host.Outcome.next.inj h).symm⟩
      · rw [he] at h
        cases h
    · rw [exec_eq_command, command, hs] at h
      simp only [hl, if_false] at h
      exact .inr (.inr ⟨by simp, (Host.Outcome.next.inj h).symm⟩)

/-- A command is never refused by the model. -/
theorem exec_not_refused (i : Instr) (s : State) (r : Refusal) : exec i s ≠ .refused r := by
  intro h
  cases hs : s.st with
  | idle => rw [exec_idle hs] at h; cases h
  | faulted => rw [exec_faulted hs] at h; cases h
  | busy =>
    by_cases hl : latched s = .command i
    · rw [exec_busy hs hl] at h
      rcases engineStep_cases (pixelFn i) s with ⟨v, _, _, he⟩ | ⟨_, he⟩ | ⟨f, he, _⟩ <;> rw [he] at h <;> cases h
    · rw [exec_eq_command, command, hs] at h
      simp only [hl, if_false] at h
      cases h

/-- Only NMS answers F_NMS_OOB. -/
theorem pixelFn_nmsOob {i : Instr} {s : State} (h : pixelFn i s = .nmsOob) : i = .nms := by
  have conv : convPixel s ≠ .nmsOob := by
    unfold convPixel
    split <;> simp
  have pair : ∀ f, pairPixel f s ≠ .nmsOob := by
    intro f
    unfold pairPixel
    split
    · simp
    · split <;> simp
  have ren : renormPixel s ≠ .nmsOob := by
    unfold renormPixel
    split <;> simp
  cases i with
  | convMean => exact absurd h conv
  | convSx => exact absurd h conv
  | convSy => exact absurd h conv
  | convUsr => exact absurd h conv
  | renorm => exact absurd h ren
  | magf => exact absurd h (pair _)
  | magx => exact absurd h (pair _)
  | nms => rfl

end Sys2Proof.Machine
end

