-- ==== Sys2Proof/Laws/Float.lean ====
section
/-! SUPPORT. Bounds of rounding, and what the integer square root is. -/

namespace Sys2Proof.Machine

/-- The nearest natural number is the quotient or one more. -/
theorem nearestEven_cases (n d : Nat) : nearestEven n d = n / d ∨ nearestEven n d = n / d + 1 := by
  unfold nearestEven
  split
  · exact .inr rfl
  · exact .inl rfl

/-- No natural number is nearer to n/d, in units of 1/(2d). -/
theorem nearestEven_near (n d : Nat) (hd : 0 < d) :
    2 * n ≤ 2 * d * nearestEven n d + d ∧ 2 * d * nearestEven n d ≤ 2 * n + d := by
  have e := Nat.div_add_mod n d
  have l := Nat.mod_lt n hd
  unfold nearestEven
  generalize n / d = q at *
  generalize n % d = r at *
  subst e
  have e : 2 * d * q = 2 * (d * q) := Nat.mul_assoc 2 d q
  split
  · rw [Nat.mul_add (2 * d), e]
    omega
  · rw [e]
    omega

/-- A whole number of units stays as it is. -/
theorem nearestEven_mul (q d : Nat) (hd : 0 < d) : nearestEven (d * q) d = q := by
  unfold nearestEven
  rw [Nat.mul_mod_right, Nat.mul_div_cancel_left q hd]
  simp
  omega

/-- A rounded magnitude is at most infinity's bits, so never a NaN's. -/
theorem roundedBits_le (n d : Nat) : roundedBits n d ≤ 0x7F800000 := Nat.min_le_right _ _

theorem signed_toNat (neg : Bool) (bits : Nat) (h : bits < 2 ^ 31) :
    (signed neg bits).toNat = (if neg then 2 ^ 31 else 0) + bits := by
  unfold signed
  cases neg <;> simp only [BitVec.toNat_ofNat] <;> simp <;> omega

theorem isqrtBits_spec (n k r : Nat) (hr : r * r ≤ n) (hk : n < (r + 2 ^ k) * (r + 2 ^ k)) :
    isqrtBits n k r * isqrtBits n k r ≤ n ∧ n < (isqrtBits n k r + 1) * (isqrtBits n k r + 1) := by
  induction k generalizing r with
  | zero =>
    unfold isqrtBits
    exact ⟨hr, hk⟩
  | succ k ih =>
    unfold isqrtBits
    split
    next h => exact ih _ h (by rw [Nat.add_assoc, ← Nat.two_mul, ← Nat.pow_succ']; exact hk)
    next h => exact ih _ hr (by omega)

/-- `isqrt n` is the greatest r with r * r ≤ n. -/
theorem isqrt_spec (n : Nat) : isqrt n * isqrt n ≤ n ∧ n < (isqrt n + 1) * (isqrt n + 1) := by
  refine isqrtBits_spec n _ 0 (Nat.zero_le _) ?_
  rw [Nat.zero_add, ← Nat.pow_add]
  have h : n < 2 ^ (n.log2 + 1) := Nat.lt_log2_self
  exact h.trans_le (Nat.pow_le_pow_right (by omega) (by omega))

end Sys2Proof.Machine
end

