-- ==== Sys2Proof/Laws/HostPort.lean ====
section
/-! SUPPORT. What the host's operations and a step can do, each said once. -/

namespace Sys2Proof.Machine

@[simp] theorem regAt_regOffset (r : Reg) : regAt (regOffset r) = some r := by
  cases r with
  | kreg n => fin_cases n <;> rfl
  | _ => rfl

/-- Every register is reached by a whole aligned access (R21, R65). -/
@[simp] theorem regAccessOk_regOffset (r : Reg) : regAccessOk 32 (regOffset r) = true := by
  cases r with
  | kreg n => fin_cases n <;> rfl
  | _ => rfl

/-- A named offset reads as its register. -/
@[simp] theorem offsetRead_regOffset (r : Reg) (s : State) : offsetRead (regOffset r) s = regRead r s := by
  simp [offsetRead]

theorem writeCmd_idle {w : Word} {s : State} {i : Instr} (h : s.st = .idle) (hd : decode w = .command i) :
    writeCmd w s = exec i s := by
  simp [writeCmd, h, hd]

theorem writeCmd_illegal {w : Word} {s : State} {why : Illegal} (h : s.st = .idle) (hd : decode w = .illegal why) :
    writeCmd w s = .next (raise .illCmd w (acceptCommand w s)) := by
  simp [writeCmd, h, hd]

theorem writeCmd_refused {w : Word} {s : State} (h : s.st ≠ .idle) : writeCmd w s = .next (refuseCommand s) := by
  unfold writeCmd
  cases hs : s.st with
  | idle => exact absurd hs h
  | busy => rfl
  | faulted => rfl

/-- Everything a host register write can do. -/
theorem hostWriteReg_cases (bits o : Nat) (v : Word) (s : State) :
    (regAccessOk bits o = false ∧ hostWriteReg bits o v s = .next (note .refused s)) ∨
    (regAccessOk bits o = true ∧ regAt o = some .cmd ∧ hostWriteReg bits o v s = writeCmd v s) ∨
    (regAccessOk bits o = true ∧ ∃ r, r ≠ .cmd ∧ regAt o = some r ∧
      hostWriteReg bits o v s = .next (regWrite r v s)) ∨
    (regAccessOk bits o = true ∧ regAt o = none ∧ hostWriteReg bits o v s = .next s) := by
  unfold hostWriteReg
  cases ha : regAccessOk bits o with
  | false => exact .inl ⟨rfl, rfl⟩
  | true =>
    right
    unfold offsetWrite
    cases hr : regAt o with
    | none => exact .inr (.inr ⟨rfl, rfl, rfl⟩)
    | some r =>
      cases r with
      | cmd => exact .inl ⟨rfl, rfl, rfl⟩
      | _ => exact .inr (.inl ⟨rfl, _, by simp, rfl, rfl⟩)

/-- Everything a host BUF write can do. -/
theorem hostWriteBuf_cases (bits a : Nat) (v : Word) (s : State) :
    (bufAccessOk s.bufWords bits a = false ∧ hostWriteBuf bits a v s = .next (note .refused s)) ∨
    (a < s.bufWords ∧ inLiveDestination s a = true ∧
      hostWriteBuf bits a v s = .refused (.hostWritesLiveDestination a)) ∨
    (a < s.bufWords ∧ inLiveSource s a = true ∧ hostWriteBuf bits a v s = .refused (.hostWritesLiveSource a)) ∨
    (a < s.bufWords ∧ inLiveDestination s a = false ∧ inLiveSource s a = false ∧
      hostWriteBuf bits a v s = .next { s with buf := writeWord s.buf a v }) := by
  unfold hostWriteBuf
  cases ha : bufAccessOk s.bufWords bits a with
  | false => exact .inl ⟨rfl, rfl⟩
  | true =>
    have hlt : a < s.bufWords := by
      simp only [bufAccessOk, Bool.and_eq_true, decide_eq_true_eq] at ha
      exact ha.2
    cases hd : inLiveDestination s a with
    | true => exact .inr (.inl ⟨hlt, rfl, rfl⟩)
    | false =>
      cases hs : inLiveSource s a with
      | true => exact .inr (.inr (.inl ⟨hlt, rfl, rfl⟩))
      | false => exact .inr (.inr (.inr ⟨hlt, rfl, rfl, rfl⟩))

/-- Everything a poll of `wait` can do. -/
theorem poll_cases (again : Stmt) (after : State → State) (s : State) :
    (s.st = .busy ∧ poll again after s =
      { note (.value (statusWord s)) s with script := again :: s.script }) ∨
    (s.st ≠ .busy ∧ poll again after s = after (note (.value (statusWord s)) s)) := by
  have hr : hostReadReg 32 0x08 s = note (.value (statusWord s)) s := rfl
  unfold poll
  rw [hr]
  by_cases h : s.st = .busy
  · exact .inl ⟨h, by simp [busyFlag, h]⟩
  · exact .inr ⟨h, by simp [busyFlag, h]⟩

/-- A step is the host's turn or the engine's. -/
theorem step_cases (s : State) :
    (nextAgent s = .host ∧ step s = hostTurn (popTurn s)) ∨
    (nextAgent s = .engine ∧ step s = engineTurn (popTurn s)) := by
  unfold step agentStep
  cases h : nextAgent s with
  | host => exact .inl ⟨rfl, rfl⟩
  | engine => exact .inr ⟨rfl, rfl⟩

/-- Everything the engine's turn can do. -/
theorem engineTurn_cases (s : State) :
    (s.st ≠ .busy ∧ engineTurn s = .next s) ∨
    (∃ i, s.st = .busy ∧ latched s = .command i ∧ engineTurn s = exec i s) ∨
    (s.st = .busy ∧ (∃ why, latched s = .illegal why) ∧ engineTurn s = .fault .snapshotNoCommand) := by
  unfold engineTurn
  cases hs : s.st with
  | idle => exact .inl ⟨by simp, rfl⟩
  | faulted => exact .inl ⟨by simp, rfl⟩
  | busy =>
    cases hl : latched s with
    | command i => exact .inr (.inl ⟨i, rfl, rfl, rfl⟩)
    | illegal why => exact .inr (.inr ⟨rfl, ⟨why, rfl⟩, rfl⟩)

end Sys2Proof.Machine
end

