-- ==== Sys2Proof/Laws/PerInstr.lean ====
section
/-! SUPPORT. What holds of every command as syntax, one lemma per constructor of `Instr`. -/

namespace Sys2Proof.Laws.FieldsLegal

/-- The command's fields are those of a legal word (R90, R91, R93), and its word has exactly these fields. -/
def Statement (i : Instr) : Prop := (fieldsOf i).wf = true ∧ formatOf (encode i) = fieldsOf i

theorem convMean : Statement .convMean := ⟨by decide, by decide⟩
theorem convSx : Statement .convSx := ⟨by decide, by decide⟩
theorem convSy : Statement .convSy := ⟨by decide, by decide⟩
theorem convUsr : Statement .convUsr := ⟨by decide, by decide⟩
theorem renorm : Statement .renorm := ⟨by decide, by decide⟩
theorem magf : Statement .magf := ⟨by decide, by decide⟩
theorem magx : Statement .magx := ⟨by decide, by decide⟩
theorem nms : Statement .nms := ⟨by decide, by decide⟩

end Sys2Proof.Laws.FieldsLegal
end

