-- ==== Sys2Proof/Laws/Pixel.lean ====
section
/-! SUPPORT. What a running command's engine step reads and does, each said once. -/

namespace Sys2Proof.Machine

/-- The snapshot of a running command names the command. -/
theorem RunningCommand.latched_eq {i : Instr} {s : State} (h : RunningCommand i s) : latched s = .command i := by
  unfold latched
  rw [h.op_latched, h.ksel_latched]
  cases i <;> decide

/-- IDX of a running command never wraps (R34). -/
theorem RunningCommand.index_succ {i : Instr} {s : State} (h : RunningCommand i s) :
    (s.idx + 1).toNat = s.idx.toNat + 1 := by
  have := h.index_below
  have := s.snap.n.isLt
  rw [BitVec.toNat_add, show (1 : Word).toNat = 1 from rfl]
  omega

theorem RunningCommand.last_iff {i : Instr} {s : State} (h : RunningCommand i s) :
    s.idx + 1 = s.snap.n ↔ s.idx.toNat + 1 = s.snap.n.toNat := by
  rw [← h.index_succ]
  exact ⟨fun e => by rw [e], fun e => BitVec.eq_of_toNat_eq e⟩

/-- The tail of the engine step, in unbounded integers. -/
theorem RunningCommand.commitPixel_eq {i : Instr} {s : State} (h : RunningCommand i s) (v : Word) :
    commitPixel v s = afterPixel s v := by
  have hx : s.idx + 1 = BitVec.ofNat 32 (s.idx.toNat + 1) := by
    apply BitVec.eq_of_toNat_eq
    rw [h.index_succ, BitVec.toNat_ofNat]
    have := h.index_below
    have := s.snap.n.isLt
    omega
  unfold commitPixel afterPixel
  rw [← hx]
  by_cases e : s.idx.toNat + 1 = s.snap.n.toNat
  · simp only [h.last_iff.mpr e, e, if_true]
  · simp only [mt h.last_iff.mp e, e, if_false, h.busy]

/-- An engine step of a running command whose pixel function gives a word. -/
theorem RunningCommand.exec_of_word {i : Instr} {s : State} {v : Word} (h : RunningCommand i s)
    (hp : pixelFn i s = .word v) : exec i s = .next (afterPixel s v) := by
  have := h.destination_inside
  have := h.index_below
  rw [exec_busy h.busy h.latched_eq, engineStep, hp]
  simp only
  rw [if_pos (by omega), h.commitPixel_eq]

/-- An engine step of a running command whose pixel function stops. -/
theorem RunningCommand.exec_of_stop {i : Instr} {s : State} {f : Fault} (h : RunningCommand i s)
    (hp : pixelFn i s = .stop f) : exec i s = .fault f := by
  rw [exec_busy h.busy h.latched_eq, engineStep, hp]

/-- Everything a read of a used source range can do (R69): it gives the word, or the word has no value. -/
theorem RunningCommand.engineRead_source_cases {i : Instr} {s : State} {k : Src} {j : Nat} (h : RunningCommand i s)
    (hk : k ∈ usedSources i) (hj : j < s.snap.n.toNat) :
    (∃ v, readWord s.buf ((latchedSrc s.snap k).toNat + j) = some v ∧
      engineRead s ((latchedSrc s.snap k).toNat + (j : Int)) = .ok v) ∨
    (readWord s.buf ((latchedSrc s.snap k).toNat + j) = none ∧
      engineRead s ((latchedSrc s.snap k).toNat + (j : Int)) =
        .error (.undefinedWord ((latchedSrc s.snap k).toNat + j))) := by
  have := h.sources_inside k hk
  rcases engineRead_cases s ((latchedSrc s.snap k).toNat + (j : Int)) with
    ⟨a, v, ha, _, hr, he⟩ | ⟨a, ha, _, hr, he⟩ | ⟨ho, _⟩
  · obtain rfl : (latchedSrc s.snap k).toNat + j = a := by omega
    exact .inl ⟨v, hr, he⟩
  · obtain rfl : (latchedSrc s.snap k).toNat + j = a := by omega
    exact .inr ⟨hr, he⟩
  · omega

/-- A word of a used source range that has a value reads as it. -/
theorem RunningCommand.engineRead_source {i : Instr} {s : State} {k : Src} {j : Nat} {v : Word}
    (h : RunningCommand i s) (hk : k ∈ usedSources i) (hj : j < s.snap.n.toNat)
    (hr : readWord s.buf ((latchedSrc s.snap k).toNat + j) = some v) :
    engineRead s ((latchedSrc s.snap k).toNat + (j : Int)) = .ok v := by
  rcases h.engineRead_source_cases hk hj with ⟨w, hw, he⟩ | ⟨hw, _⟩
  · rw [hw] at hr
    cases hr
    exact he
  · rw [hw] at hr
    cases hr

/-- The word of pixel IDX. -/
theorem RunningCommand.pixelWord_ok {i : Instr} {s : State} {k : Src} {v : Word} (h : RunningCommand i s)
    (hk : k ∈ usedSources i) (hr : readWord s.buf ((latchedSrc s.snap k).toNat + s.idx.toNat) = some v) :
    pixelWord s k = .ok v :=
  h.engineRead_source hk h.index_below hr

/-- The row and column of a running command's pixel lie in the image (R13). -/
theorem RunningCommand.row_col {i : Instr} {s : State} (h : RunningCommand i s) :
    rowOf s.snap.w.toNat s.idx.toNat < s.snap.h.toNat ∧ colOf s.snap.w.toNat s.idx.toNat < s.snap.w.toNat := by
  have := h.width_two
  have := h.index_below
  have := h.count
  exact ⟨Nat.div_lt_of_lt_mul (by omega), Nat.mod_lt _ (by omega)⟩

/-- The products of taps that can all be read, in order. -/
theorem tapProducts_ok {s : State} {f : Nat × Nat → Word} {l : List (Nat × Nat)}
    (h : ∀ t ∈ l, tapProduct s t = .ok (f t)) : tapProducts s l = .ok (l.map f) := by
  induction l with
  | nil => rfl
  | cons t l ih =>
    rw [tapProducts, h t (by simp)]
    simp only
    rw [ih fun u hu => h u (by simp [hu])]
    rfl

theorem outside_iff (n : Nat) (j : Int) : outside n j = true ↔ j < 0 ∨ (n : Int) ≤ j := by simp [outside]

theorem isBorderRow_iff (w n i : Nat) : isBorderRow w n i = true ↔ i < w ∨ (n : Int) - w ≤ i := by simp [isBorderRow]

theorem inRange_iff (b n a : Nat) : inRange b n a = true ↔ b ≤ a ∧ a < b + n := by simp [inRange]

end Sys2Proof.Machine
end

