-- ==== Sys2Proof/Tests/Slice0.lean ====
section
/-! SUPPORT. Tests of the model, and for every statement with hypotheses a state and operands that meet them. Expected
words are those of `spec/95_test_vectors.md` (the vector is named at each test) or are written out from the rule named. -/

namespace Sys2Proof.Tests

open Sys2Proof Sys2Proof.Machine

/-! ## Helpers -/

/-- The four bytes of words at consecutive BUF addresses, in R64's order. -/
def cells : Nat → List Word → Memory
  | _, [] => []
  | a, v :: vs => (4 * a, v.extractLsb 7 0) :: (4 * a + 1, v.extractLsb 15 8) :: (4 * a + 2, v.extractLsb 23 16) ::
      (4 * a + 3, v.extractLsb 31 24) :: cells (a + 1) vs

/-- `m`, and words at consecutive BUF addresses above all of it. -/
def fill (m : Memory) (a : Nat) (vs : List Word) : Memory := m ++ cells a vs

/-- An idle machine with a w x h image: SRC0 = 0, SRC1 = 16, SRC2 = 32, DST = 48, 64 words of BUF. -/
def ready (w h : BitVec 16) (m : Memory) : State :=
  { State.reset with width := w, height := h, src1 := 16, src2 := 32, dst := 48, bufWords := 64, buf := m }

/-- The same machine with command `i` issued, at pixel `idx`. -/
def running (i : Instr) (w h : BitVec 16) (idx : Word) (m : Memory) : State :=
  { launch i (acceptCommand (encode i) (ready w h m)) with idx := idx }

/-- The same with KREG0 to KREG8 as given at issue. -/
def runningUsr (k : Vector Word 9) (w h : BitVec 16) (idx : Word) (m : Memory) : State :=
  { launch .convUsr (acceptCommand (encode .convUsr) { ready w h m with kreg := k }) with idx := idx }

def isNext : Host.Outcome State Fault Refusal → Bool
  | .next _ => true
  | .fault _ => false
  | .refused _ => false

theorem exists_next {o : Host.Outcome State Fault Refusal} (h : isNext o = true) : ∃ t, o = .next t := by
  cases o with
  | next t => exact ⟨t, rfl⟩
  | fault r => cases h
  | refused r => cases h

/-- A next state that meets a test. -/
def nextWith (p : State → Bool) : Host.Outcome State Fault Refusal → Bool
  | .next t => p t
  | .fault _ => false
  | .refused _ => false

theorem exists_nextWith {p : State → Bool} {o : Host.Outcome State Fault Refusal} (h : nextWith p o = true) :
    ∃ t, o = .next t ∧ p t = true := by
  cases o with
  | next t => exact ⟨t, rfl, h⟩
  | fault r => cases h
  | refused r => cases h

/-- The word an engine step of `i` stores for the pixel at IDX. -/
def outWord (i : Instr) (s : State) : Option Word :=
  match exec i s with
  | .next t => readWord t.buf (s.snap.dst.toNat + s.idx.toNat)
  | .fault _ => none
  | .refused _ => none

/-- STATUS and FINFO after a write of CMD. -/
def afterCmd (w : Word) (s : State) : Option (Word × Word) :=
  match writeCmd w s with
  | .next t => some (statusWord t, t.finfo)
  | .fault _ => none
  | .refused _ => none

/-! ## WellFormed refuses ill-formed terms (R90, R91, R65) -/

theorem test_wf_zero : (FormatC.mk 1 0 1).wf = false := by decide
theorem test_wf_op : (FormatC.mk 0 0 6).wf = false ∧ (FormatC.mk 0 0 0).wf = false := by decide
theorem test_wf_ksel : (FormatC.mk 0 1 2).wf = false := by decide
theorem test_wf_ok : (FormatC.mk 0 3 1).wf = true ∧ (FormatC.mk 0 0 5).wf = true := by decide
theorem test_wf_register_width : (Stmt.readReg 16 0x08).wf 64 = false := by decide
theorem test_wf_register_aligned : (Stmt.writeReg 32 0x0A 0).wf 64 = false := by decide
theorem test_wf_register_inside : (Stmt.readReg 32 0x100).wf 64 = false ∧ (Stmt.readReg 32 0xFC).wf 64 = true := by decide
theorem test_wf_buf_width : (Stmt.writeBuf 8 0 0).wf 64 = false := by decide
theorem test_wf_buf_inside : (Stmt.readBuf 32 64).wf 64 = false ∧ (Stmt.readBuf 32 63).wf 64 = true := by decide

/-! ## Decoding: words written out from R90 (ZERO 31:6, KSEL 5:4, OP 3:0) and R93 -/

theorem test_decode_convMean : decode 0b00000000000000000000000000000001 = .command .convMean := by decide
theorem test_decode_convSx : decode 0b00000000000000000000000000010001 = .command .convSx := by decide
theorem test_decode_convSy : decode 0b00000000000000000000000000100001 = .command .convSy := by decide
theorem test_decode_convUsr : decode 0b00000000000000000000000000110001 = .command .convUsr := by decide
theorem test_decode_renorm : decode 0b00000000000000000000000000000010 = .command .renorm := by decide
theorem test_decode_magf : decode 0b00000000000000000000000000000011 = .command .magf := by decide
theorem test_decode_magx : decode 0b00000000000000000000000000000100 = .command .magx := by decide
theorem test_decode_nms : decode 0b00000000000000000000000000000101 = .command .nms := by decide

/-- V-F1's illegal words. -/
theorem test_decode_illegal :
    decode 0x00000000 = .illegal .reservedOp ∧ decode 0x00000006 = .illegal .reservedOp ∧
    decode 0x0000000F = .illegal .reservedOp ∧ decode 0x00000012 = .illegal .kselNotZero ∧
    decode 0x00000041 = .illegal .zeroField ∧ decode 0x80000001 = .illegal .zeroField := by decide

theorem test_decodeTableWord : decodeTableWord 32 0x31 = some .convUsr ∧ decodeTableWord 8 0x31 = some .convUsr ∧
    decodeTableWord 32 0x32 = none := by decide

theorem test_encode : encode .convSy = 0x00000021 ∧ encode .nms = 0x00000005 := by decide

/-! ## Arithmetic (V-A1 to V-A33) -/

theorem test_fadd : fadd 0x3F800000 0x33800000 = 0x3F800000 ∧ fadd 0x3F800001 0x33800000 = 0x3F800002 ∧
    fadd 0x00000000 0x80000000 = 0x00000000 ∧ fadd 0x80000000 0x80000000 = 0x80000000 ∧
    fadd 0x7F7FFFFF 0x7F7FFFFF = 0x7F800000 ∧ fadd 0x00000001 0x00000001 = 0x00000002 ∧
    fsub 0x30800000 0x3F000000 = 0xBF000000 := by decide +kernel

theorem test_fmul : fmul 0x00000000 0x7F800000 = 0x7FC00000 ∧ fmul 0xBF800000 0x00000000 = 0x80000000 ∧
    fmul 0x00000001 0x3F000000 = 0x00000000 ∧ fmul 0x00000003 0x3F000000 = 0x00000002 ∧
    fmul 0x3F800001 0x3F800001 = 0x3F800002 := by decide +kernel

theorem test_fdiv : fdiv 0x3F800000 0x80000000 = 0xFF800000 ∧ fdiv 0x00000000 0x00000000 = 0x7FC00000 ∧
    fdiv 0x3F800000 0x40400000 = 0x3EAAAAAB ∧ fdiv 0x3FB504F3 0x3FB4FDF4 = 0x3F8004F3 := by decide +kernel

theorem test_fsqrt : fsqrt 0x40000000 = 0x3FB504F3 ∧ fsqrt 0x80000000 = 0x80000000 ∧ fsqrt 0xBF800000 = 0x7FC00000 ∧
    fsqrt 0x00000001 = 0x1A3504F3 ∧ fsqrt 0x3FA00000 = 0x3F8F1BBD := by decide +kernel

/-- V-N4. -/
theorem test_bucket : bucketOf 0x3E8A3D70 = .z ∧ bucketOf 0x3E8A3D71 = .p ∧ bucketOf 0xBE8A3D71 = .n ∧
    bucketOf 0x4043D709 = .p ∧ bucketOf 0x4043D70A = .h ∧ bucketOf 0xC043D709 = .n ∧ bucketOf 0xC043D70A = .h ∧
    bucketOf 0x7FC00000 = .h ∧ bucketOf 0xFF800000 = .h := by decide +kernel

/-! ## One engine step of each command -/

/-- V-C5, the binary32 nearest to 0.1 to 0.9. -/
def tenths : Memory := fill [] 0
  [0x3DCCCCCD, 0x3E4CCCCD, 0x3E99999A, 0x3ECCCCCD, 0x3F000000, 0x3F19999A, 0x3F333333, 0x3F4CCCCD, 0x3F666666]

/-- 1 to 12. -/
def twelve : List Word :=
  [0x3F800000, 0x40000000, 0x40400000, 0x40800000, 0x40A00000, 0x40C00000, 0x40E00000, 0x41000000, 0x41100000,
    0x41200000, 0x41300000, 0x41400000]

/-- V-C5 pixel 5: each partial sum is rounded. -/
theorem test_convMean_rounds : outWord .convMean (running .convMean 3 3 5 tenths) = some 0x40533334 := by decide +kernel

/-- V-C6 (a) pixel 4: the order of the sum. -/
theorem test_convMean_order :
    outWord .convMean (running .convMean 3 3 4 (fill [] 0 [0x4D000000, 0x3F800000, 0xCD000000, 0, 0, 0, 0, 0, 0])) =
      some 0x00000000 := by decide +kernel

/-- V-C3, W = 4, H = 3, pixel 4: no row-wrap. -/
theorem test_convSx_left_edge : outWord .convSx (running .convSx 4 3 4 (fill [] 0 twelve)) = some 0x41C00000 := by
  decide +kernel

/-- V-C8 pixel 4: a zero weight is still multiplied. -/
theorem test_convSx_zero_weight :
    outWord .convSx (running .convSx 3 3 4 (fill [] 0 [0, 0, 0, 0, 0x7F800000, 0, 0, 0, 0])) = some 0x7FC00000 := by
  decide +kernel

/-- V-C9 pixel 4 for 1 + 2^-23. -/
theorem test_convSy_uniform :
    outWord .convSy (running .convSy 3 3 4 (fill [] 0 (List.replicate 9 0x3F800001))) = some 0x34000000 := by
  decide +kernel

/-- V-C2 pixel 2. -/
theorem test_convSy_corner : outWord .convSy (running .convSy 2 2 2 (fill [] 0 (twelve.take 4))) = some 0x40800000 := by
  decide +kernel

/-- V-C1 pixel 2, kernel 1 to 9. -/
theorem test_convUsr_corner :
    outWord .convUsr (runningUsr #v[0x3F800000, 0x40000000, 0x40400000, 0x40800000, 0x40A00000, 0x40C00000, 0x40E00000,
      0x41000000, 0x41100000] 3 3 2 (fill [] 0 (twelve.take 9))) = some 0x42D40000 := by decide +kernel

/-- V-C4 pixel 3 (class L): the taps kept, as a mask. -/
theorem test_convUsr_taps :
    outWord .convUsr (runningUsr #v[0x3F800000, 0x40000000, 0x40800000, 0x41000000, 0x41800000, 0x42000000, 0x42800000,
      0x43000000, 0x43800000] 3 3 3 (fill [] 0 (List.replicate 9 0x3F800000))) = some 0x43DB0000 := by decide +kernel

/-- V-G1 case 10. -/
theorem test_renorm_exact :
    outWord .renorm (running .renorm 2 2 1 (fill [] 0 [0, 0xC07FFFFF, 0, 0])) = some 0x33000000 := by decide +kernel

/-- V-G1: a NaN payload is not kept. -/
theorem test_renorm_nan :
    outWord .renorm (running .renorm 2 2 3 (fill [] 0 [0, 0, 0, 0xFFC12345])) = some 0x7FC00000 := by decide +kernel

/-- V-G2 row 4: sx = 1, sy = 0.5. -/
theorem test_magf :
    outWord .magf (running .magf 2 2 0 (fill (fill [] 0 [0x3F800000]) 16 [0x3F000000])) = some 0x3F4A6A95 := by
  decide +kernel

/-- V-G2: the squares overflow. -/
theorem test_magf_overflow :
    outWord .magf (running .magf 2 2 0 (fill (fill [] 0 [0x7F61B1E6]) 16 [0x7F61B1E6])) = some 0x7F800000 := by
  decide +kernel

/-- V-G4: sx = -1, sy = 0. -/
theorem test_magx :
    outWord .magx (running .magx 2 2 0 (fill (fill [] 0 [0xBF800000]) 16 [0x00000000])) = some 0x400F2145 := by
  decide +kernel

/-- V-G4: sx = sy = 0.5. -/
theorem test_magx_flat :
    outWord .magx (running .magx 2 2 0 (fill (fill [] 0 [0x3F000000]) 16 [0x3F000000])) = some 0x00000000 := by
  decide +kernel

/-- V-N2 (a): three 3x3 images, sx and sy 0.5 in the border rows. -/
def nmsImages (sx sy : List Word) : Memory :=
  fill (fill (fill [] 3 sx) 19 sy) 32
    [0x3E000000, 0x3E800000, 0x3F600000, 0x3F000000, 0x3E800000, 0x3EC00000, 0x3F200000, 0x3E800000, 0x3D800000]

/-- V-N2 (a) pixel 5: bucket P, its neighbour on the other side of the row suppresses it. -/
theorem test_nms_wrap :
    outWord .nms (running .nms 3 3 5 (nmsImages [0x3F800000, 0x3E800000, 0x3F400000]
      [0x3F000000, 0x3F400000, 0x3F400000])) = some 0x00000000 := by decide +kernel

/-- V-N3 (b) step 5: F_NMS_OOB, STATUS 0x504, FINFO 5, IDX 5. -/
theorem test_nms_outside :
    nextWith (fun t => statusWord t == 0x00000504 && t.finfo == 5 && t.idx == 5)
      (exec .nms (running .nms 3 3 5 (nmsImages [0x3F800000, 0x3E800000, 0x3E800000]
        [0x3F000000, 0x3F400000, 0x3F400000]))) = true := by decide +kernel

/-! ## Issue, registers, host -/

/-- V-F1. -/
theorem test_illegal_command : afterCmd 0x0000000F (ready 3 3 []) = some (0x00000104, 0x0000000F) := by decide

/-- R262: (H << 16) or W. -/
theorem test_dim_fault : afterCmd 0x00000001 (ready 1 7 []) = some (0x00000204, 0x00070001) := by decide

/-- R263: a buffer may end at BUF_WORDS (here SRC0 and DST), not beyond. -/
theorem test_range : afterCmd 0x00000002 (ready 4 4 []) = some (0x00000001, 0) ∧
    afterCmd 0x00000002 (ready 4 5 []) = some (0x00000304, 3) := by decide

/-- R264: neighbouring ranges do not overlap, one shared word does. -/
theorem test_overlap : afterCmd 0x00000005 { ready 4 4 [] with dst := 15 } = some (0x00000404, 0) ∧
    afterCmd 0x00000002 { ready 4 4 [] with dst := 16 } = some (0x00000001, 0) := by decide

/-- R38. -/
theorem test_refused_command : afterCmd 0x00000001 (running .renorm 2 2 0 []) = some (0x00000009, 0) := by decide

/-- R26, R65: WIDTH keeps 16 bits and reads back. -/
theorem test_width_register :
    nextWith (fun t => offsetRead 0x10 t == 0x00005678) (hostWriteReg 32 0x10 0x12345678 State.reset) = true := by decide

/-- V-F1: CMD (0x0C) and FINFO (0x28) read the illegal word after it is issued. -/
theorem test_cmd_and_finfo_read :
    nextWith (fun t => offsetRead 0x0C t == 0x0000000F && offsetRead 0x28 t == 0x0000000F)
      (writeCmd 0x0000000F (ready 3 3 [])) = true := by decide

/-- R124: a quotient that underflows to zero keeps the exclusive-or of the signs. -/
theorem test_fdiv_underflow : fdiv 0x80000001 0x7F7FFFFF = 0x80000000 ∧ fdiv 0x80000001 0xFF7FFFFF = 0x00000000 := by
  decide +kernel

/-- R126: infinities as extended reals; an infinite magnitude ties with another. -/
theorem test_infinities : fge 0x7F800000 0x7F800000 = true ∧ fle 0xFF800000 0x7F800000 = true ∧
    fgt 0xFF800000 0x7F800000 = false ∧ flt 0xFF800000 0xFF800000 = false := by decide +kernel

/-- R64: little-endian bytes. -/
theorem test_byte_order : readByte (writeWord [] 1 0x11223344) 4 = some 0x44 ∧
    readByte (writeWord [] 1 0x11223344) 7 = some 0x11 := by decide

/-- The first command after reset is fetched and run: WIDTH = 0 gives F_DIM (R262). -/
theorem test_withFetchWord :
    nextWith (fun t => t.cmd == 0x00000003 && statusWord t == 0x00000204 && t.script == [])
      (step (State.reset.withFetchWord 32 0x00000003)) = true := by decide

/-- R97, R312: `CONV.SX 48, 0` as a script, a 2x2 image (V-C2): two register writes, the issue,
four pixels, one poll. -/
theorem test_script :
    nextWith (fun t => readWord t.buf 48 == some 0x41000000 && readWord t.buf 51 == some 0xC0E00000 &&
        t.noted == [.value 0x00000002] && readWord t.buf 52 == none)
      (Host.Core.run core 8 { ready 2 2 (fill [] 0 (twelve.take 4)) with script := convSxPseudo 48 0 }) = true := by
  decide +kernel

/-! ## Witnesses: what each statement with hypotheses assumes is met -/

/-- Three buffers of a 3x3 image with nothing in them undefined: sx = sy = 1, m = 1 to 9. -/
def images : Memory := fill (fill (fill [] 0 (List.replicate 9 0x3F800000)) 16 (List.replicate 9 0x3F800000)) 32 (twelve.take 9)

/-- sx - 0.5 = -0.5, sy - 0.5 = 0.5: every pixel in bucket N. -/
def imagesN : Memory := fill (fill (fill [] 0 (List.replicate 9 0)) 16 (List.replicate 9 0x3F800000)) 32 (twelve.take 9)

theorem running_first (i : Instr) : RunningCommand i (running i 3 3 0 []) := by
  cases i <;>
    exact ⟨rfl, by decide, by decide, by decide, by decide, by decide, by decide, by decide, by decide, by decide,
      by decide, by decide, by decide⟩

/-- Pixel `idx` of a 3x3 image in progress. -/
theorem running_command (i : Instr) (m : Memory) (idx : Word) (h : idx.toNat < 9) :
    RunningCommand i (running i 3 3 idx m) :=
  have f := running_first i
  ⟨f.busy, f.op_latched, f.ksel_latched, f.width_two, f.height_two, f.count, h, f.sources_inside,
    f.destination_inside, f.no_overlap, f.mean_kernel, f.sobelX_kernel, f.sobelY_kernel⟩

/-- The invariant of a running command, whatever the host's script and the coming turns. -/
theorem running_inv (i : Instr) (m : Memory) (idx : Word) (sd : List Agent) (sc : List Stmt) (h : idx.toNat < 9)
    (hm : Memory.wf m = true) (hi : ∀ c ∈ m, c.1 < 256) :
    CoreInv { running i 3 3 idx m with sched := sd, script := sc } :=
  have f := running_first i
  { bufWords_pos := by show 1 ≤ 64; decide
    bufWords_le := by show 64 ≤ 2 ^ 32; decide
    buf_wf := hm
    buf_inside := hi
    done_idle := fun hd => by cases hd
    fcode_clear := fun _ => rfl
    fcode_legal := fun hf => by cases hf
    finfo_clear := fun _ => rfl
    busy_running := fun _ => ⟨i, f.busy, f.op_latched, f.ksel_latched, f.width_two, f.height_two, f.count, h,
      f.sources_inside, f.destination_inside, f.no_overlap, f.mean_kernel, f.sobelX_kernel, f.sobelY_kernel⟩ }

theorem plain_inv (i : Instr) (m : Memory) (idx : Word) (h : idx.toNat < 9) (hm : Memory.wf m = true)
    (hi : ∀ c ∈ m, c.1 < 256) : CoreInv (running i 3 3 idx m) :=
  running_inv i m idx [] [] h hm hi

/-- The invariant of an idle machine that no command has run on. -/
theorem ready_inv (w h : BitVec 16) (sc : List Stmt) : CoreInv { ready w h [] with script := sc } where
  bufWords_pos := by show 1 ≤ 64; decide
  bufWords_le := by show 64 ≤ 2 ^ 32; decide
  buf_wf := rfl
  buf_inside := by intro c hc; cases hc
  done_idle := fun _ => rfl
  fcode_clear := fun _ => rfl
  fcode_legal := fun hf => by cases hf
  finfo_clear := fun _ => rfl
  busy_running := fun hb => by cases hb

theorem images_wf : Memory.wf images = true ∧ (∀ c ∈ images, c.1 < 256) ∧ Memory.wf imagesN = true ∧
    ∀ c ∈ imagesN, c.1 < 256 := by decide +kernel

theorem witness_LegalWordsAreTheEightCommands : (ready 3 3 []).st = .idle ∧ ∀ i, (0x00000006 : Word) ≠ encode i :=
  ⟨rfl, fun i => by cases i <;> decide⟩

theorem witness_StepRunsTheDecodedCommand_host :
    nextAgent { State.reset with script := [.writeReg 32 0x0C 1] } = .host ∧
    ({ State.reset with script := [.writeReg 32 0x0C 1] } : State).script = .writeReg 32 0x0C 1 :: [] ∧
    State.reset.st = .idle ∧ decode 1 = .command .convMean := by decide

theorem witness_StepRunsTheDecodedCommand_engine (i : Instr) : nextAgent (running i 3 3 0 images) = .engine ∧
    (running i 3 3 0 images).st = .busy ∧ latched (running i 3 3 0 images) = .command i :=
  ⟨rfl, rfl, by cases i <;> decide⟩

/-- The least image, and one that ends at the end of BUF. -/
theorem witness_LegalIssueLaunches (i : Instr) : (ready 2 2 []).st = .idle ∧ OperandsLegal i (ready 2 2 []) ∧
    OperandsLegal i (ready 4 4 []) := by
  refine ⟨rfl, ?_, ?_⟩ <;> cases i <;> exact ⟨by decide, by decide, by decide, by decide, by decide⟩

theorem witness_SmallDimensionsFault : (ready 1 2 []).st = .idle ∧ (ready 1 2 []).width.toNat < 2 ∧
    (ready 65535 0 []).st = .idle ∧ (ready 65535 0 []).height.toNat < 2 := by decide

/-- The hypotheses of `BufferOutsideBufFaults` for NMS. -/
abbrev rangeHypotheses (s : State) (before after : List (Word × Word)) (number base : Word) : Prop :=
  s.st = .idle ∧ 2 ≤ s.width.toNat ∧ 2 ≤ s.height.toNat ∧
  (usedSources .nms).map (fun k => (k.number, srcReg s k)) ++ [(3, s.dst)] = before ++ (number, base) :: after ∧
  (∀ b ∈ before, b.2.toNat + s.width.toNat * s.height.toNat ≤ s.bufWords) ∧
  s.bufWords < base.toNat + s.width.toNat * s.height.toNat

/-- Each of NMS's four buffers as the first that leaves BUF, the later two by one word. -/
theorem witness_BufferOutsideBufFaults :
    rangeHypotheses (ready 5 13 []) [] [(1, 16), (2, 32), (3, 48)] 0 0 ∧
    rangeHypotheses (ready 7 7 []) [(0, 0)] [(2, 32), (3, 48)] 1 16 ∧
    rangeHypotheses (ready 3 11 []) [(0, 0), (1, 16)] [(3, 48)] 2 32 ∧
    rangeHypotheses { ready 4 4 [] with dst := 49 } [(0, 0), (1, 16), (2, 32)] [] 3 49 := by
  refine ⟨?_, ?_, ?_, ?_⟩ <;>
    exact ⟨rfl, by decide, by decide, by decide, by simp [ready], by decide⟩

/-- DST = 24 shares word 24 with SRC1 at 16 (9 words) and none with SRC0 at 0. -/
theorem witness_DestinationOverlapFaults :
    let s : State := { ready 3 3 [] with dst := 24 }
    s.st = .idle ∧ 2 ≤ s.width.toNat ∧ 2 ≤ s.height.toNat ∧
    (∀ j ∈ usedSources .magf, (srcReg s j).toNat + s.width.toNat * s.height.toNat ≤ s.bufWords) ∧
    s.dst.toNat + s.width.toNat * s.height.toNat ≤ s.bufWords ∧
    usedSources .magf = [.src0] ++ .src1 :: [] ∧
    (∀ j ∈ [Src.src0], ∀ a, ¬(inRange (srcReg s j).toNat (s.width.toNat * s.height.toNat) a = true ∧
      inRange s.dst.toNat (s.width.toNat * s.height.toNat) a = true)) ∧
    (∃ a, inRange (srcReg s .src1).toNat (s.width.toNat * s.height.toNat) a = true ∧
      inRange s.dst.toNat (s.width.toNat * s.height.toNat) a = true) := by
  refine ⟨rfl, by decide, by decide, by decide, by decide, rfl, ?_, 24, by decide⟩
  intro j hj a
  have : j = .src0 := by simpa using hj
  subst this
  have h0 : (srcReg ({ ready 3 3 [] with dst := 24 } : State) .src0).toNat = 0 := by decide
  have h1 : ({ ready 3 3 [] with dst := 24 } : State).dst.toNat = 24 := by decide
  have h2 : ({ ready 3 3 [] with dst := 24 } : State).width.toNat * ({ ready 3 3 [] with dst := 24 } : State).height.toNat = 9 := by
    decide
  simp only [inRange, Bool.and_eq_true, decide_eq_true_eq, h0, h1, h2]
  omega

/-- Both cases: a launch and a fault. -/
theorem witness_IssueFrame : (ready 3 3 []).st = .idle ∧ (∃ t, exec .nms (ready 3 3 []) = .next t ∧ t.st = .busy) ∧
    (ready 1 3 []).st = .idle ∧ ∃ t, exec .nms (ready 1 3 []) = .next t ∧ t.st = .faulted :=
  ⟨rfl, ⟨_, rfl, by decide⟩, rfl, ⟨_, rfl, by decide⟩⟩

theorem witness_RenormPixelStep : RunningCommand .renorm (running .renorm 3 3 8 images) ∧
    readWord (running .renorm 3 3 8 images).buf 8 = some 0x3F800000 :=
  ⟨running_command _ _ _ (by decide), by decide +kernel⟩

theorem witness_MagfPixelStep : RunningCommand .magf (running .magf 3 3 8 images) ∧
    readWord (running .magf 3 3 8 images).buf 8 = some 0x3F800000 ∧
    readWord (running .magf 3 3 8 images).buf (16 + 8) = some 0x3F800000 :=
  ⟨running_command _ _ _ (by decide), by decide +kernel, by decide +kernel⟩

theorem witness_MagxPixelStep : RunningCommand .magx (running .magx 3 3 0 images) ∧
    readWord (running .magx 3 3 0 images).buf 0 = some 0x3F800000 ∧
    readWord (running .magx 3 3 0 images).buf (16 + 0) = some 0x3F800000 :=
  ⟨running_command _ _ _ (by decide), by decide +kernel, by decide +kernel⟩

/-- Each convolution at a corner (pixel 0) and inside (pixel 4). -/
theorem witness_ConvolutionPixelStep : ∀ i ∈ [Instr.convMean, .convSx, .convSy, .convUsr],
    RunningCommand i (running i 3 3 0 images) ∧ RunningCommand i (running i 3 3 4 images) ∧
    (∀ t ∈ existingTaps 3 3 0 0, readWord (running i 3 3 0 images).buf
      ((running i 3 3 0 images).snap.src0.toNat + ((0 + t.1 - 1) * 3 + (0 + t.2 - 1))) = some 0x3F800000) ∧
    (∀ t ∈ existingTaps 3 3 1 1, readWord (running i 3 3 4 images).buf
      ((running i 3 3 4 images).snap.src0.toNat + ((1 + t.1 - 1) * 3 + (1 + t.2 - 1))) = some 0x3F800000) :=
  fun i _ => ⟨running_command _ _ _ (by decide), running_command _ _ _ (by decide), by cases i <;> decide +kernel,
    by cases i <;> decide +kernel⟩

/-- The first and the last row. -/
theorem witness_NmsBorderRowsAreCopied : RunningCommand .nms (running .nms 3 3 2 images) ∧
    (running .nms 3 3 2 images).idx.toNat / 3 = 0 ∧
    readWord (running .nms 3 3 2 images).buf (32 + 2) = some 0x40400000 ∧
    RunningCommand .nms (running .nms 3 3 6 images) ∧
    (running .nms 3 3 6 images).idx.toNat / 3 = (running .nms 3 3 6 images).snap.h.toNat - 1 ∧
    readWord (running .nms 3 3 6 images).buf (32 + 6) = some 0x40E00000 :=
  ⟨running_command _ _ _ (by decide), by decide, by decide +kernel, running_command _ _ _ (by decide), by decide,
    by decide +kernel⟩

/-- Pixel 4, ratio 1 (bucket P, neighbours 2 and 6). -/
theorem witness_NmsInnerRowsAreSuppressed :
    let s := running .nms 3 3 4 images
    RunningCommand .nms s ∧ 0 < s.idx.toNat / s.snap.w.toNat ∧ s.idx.toNat / s.snap.w.toNat < s.snap.h.toNat - 1 ∧
    readWord s.buf (s.snap.src0.toNat + s.idx.toNat) = some 0x3F800000 ∧
    readWord s.buf (s.snap.src1.toNat + s.idx.toNat) = some 0x3F800000 ∧
    ((2 : Nat) : Int) = s.idx.toNat +
      (nmsOffsetsOfRatio s.snap.w.toNat (fdiv (fsub 0x3F800000 0x3F000000) (fsub 0x3F800000 0x3F000000))).1 ∧
    ((6 : Nat) : Int) = s.idx.toNat +
      (nmsOffsetsOfRatio s.snap.w.toNat (fdiv (fsub 0x3F800000 0x3F000000) (fsub 0x3F800000 0x3F000000))).2 ∧
    2 < s.snap.n.toNat ∧ 6 < s.snap.n.toNat ∧
    readWord s.buf (s.snap.src2.toNat + s.idx.toNat) = some 0x40A00000 ∧
    readWord s.buf (s.snap.src2.toNat + 2) = some 0x40400000 ∧
    readWord s.buf (s.snap.src2.toNat + 6) = some 0x40E00000 :=
  ⟨running_command _ _ _ (by decide), by decide, by decide, by decide +kernel, by decide +kernel, by decide +kernel,
    by decide +kernel, by decide, by decide, by decide +kernel, by decide +kernel, by decide +kernel⟩

/-- Pixels 3 and 5 in bucket N fault; pixel 4 does not. -/
theorem witness_NmsNeighbourOutsideFaults : ∀ k ∈ [(3 : Word), 4, 5],
    let s := running .nms 3 3 k imagesN
    RunningCommand .nms s ∧ 0 < s.idx.toNat / s.snap.w.toNat ∧ s.idx.toNat / s.snap.w.toNat < s.snap.h.toNat - 1 ∧
    readWord s.buf (s.snap.src0.toNat + s.idx.toNat) = some 0 ∧
    readWord s.buf (s.snap.src1.toNat + s.idx.toNat) = some 0x3F800000 ∧
    bucketOf (fdiv (fsub 0 0x3F000000) (fsub 0x3F800000 0x3F000000)) = .n := by
  intro k hk
  have hk' : k = 3 ∨ k = 4 ∨ k = 5 := by simpa using hk
  rcases hk' with rfl | rfl | rfl
  all_goals exact ⟨running_command _ _ _ (by decide), by decide +kernel⟩

theorem witness_NmsOutputIsMagnitudeOrZero : RunningCommand .nms (running .nms 3 3 4 images) ∧
    ∃ t, exec .nms (running .nms 3 3 4 images) = .next t ∧ (t.st != .faulted) = true :=
  ⟨running_command _ _ _ (by decide), exists_nextWith (by decide +kernel)⟩

/-- Every command completes a pixel, and the last one; NMS also faults. -/
theorem witness_EngineStepFrame (i : Instr) : RunningCommand i (running i 3 3 4 images) ∧
    (∃ t, exec i (running i 3 3 4 images) = .next t ∧ (t.st == .busy) = true) ∧
    RunningCommand i (running i 3 3 8 images) ∧
    (∃ t, exec i (running i 3 3 8 images) = .next t ∧ (t.st == .idle) = true) ∧
    RunningCommand .nms (running .nms 3 3 3 imagesN) ∧
    (∃ t, exec .nms (running .nms 3 3 3 imagesN) = .next t ∧ (t.st == .faulted) = true) :=
  ⟨running_command _ _ _ (by decide), exists_nextWith (by cases i <;> decide +kernel),
    running_command _ _ _ (by decide), exists_nextWith (by cases i <;> decide +kernel),
    running_command _ _ _ (by decide), exists_nextWith (by decide +kernel)⟩

/-- sx = sy = 1 and nothing in SRC2. -/
def gradientsOnly : Memory := fill (fill [] 0 (List.replicate 9 0x3F800000)) 16 (List.replicate 9 0x3F800000)

/-- RENORM; MAGF and MAGX with the second word alone undefined; the convolutions at a corner and inside; NMS in the first
and last row, in an inner row without gradients, and there with gradients (bucket P, neighbours 2 and 6) and no magnitude. -/
theorem witness_UndefinedSourceWordStopsTheModel :
    (RunningCommand .renorm (running .renorm 3 3 4 []) ∧ readWord (running .renorm 3 3 4 []).buf (0 + 4) = none) ∧
    (∀ i ∈ [Instr.magf, .magx], RunningCommand i (running i 3 3 4 (fill [] 0 (twelve.take 9))) ∧
      readWord (running i 3 3 4 (fill [] 0 (twelve.take 9))).buf (16 + 4) = none) ∧
    (∀ i ∈ [Instr.convMean, .convSx, .convSy, .convUsr], ∀ k ∈ [(0 : Word), 4],
      RunningCommand i (running i 3 3 k (fill [] 0 (twelve.take 3))) ∧ (1, 1) ∈ existingTaps 3 3 0 0 ∧
      (2, 2) ∈ existingTaps 3 3 0 0 ∧ (2, 2) ∈ existingTaps 3 3 1 1 ∧
      readWord (running i 3 3 k (fill [] 0 (twelve.take 3))).buf (0 + ((0 + 2 - 1) * 3 + (0 + 2 - 1))) = none ∧
      readWord (running i 3 3 k (fill [] 0 (twelve.take 3))).buf (0 + ((1 + 2 - 1) * 3 + (1 + 2 - 1))) = none) ∧
    (RunningCommand .nms (running .nms 3 3 2 []) ∧ (running .nms 3 3 2 []).idx.toNat / 3 = 0 ∧
      RunningCommand .nms (running .nms 3 3 6 []) ∧ (running .nms 3 3 6 []).idx.toNat / 3 = 3 - 1 ∧
      readWord (running .nms 3 3 6 []).buf (32 + 6) = none) ∧
    (RunningCommand .nms (running .nms 3 3 4 gradientsOnly) ∧ 0 < 4 / 3 ∧ 4 / 3 < 3 - 1 ∧
      readWord (running .nms 3 3 4 []).buf (0 + 4) = none ∧
      readWord (running .nms 3 3 4 gradientsOnly).buf (0 + 4) = some 0x3F800000 ∧
      readWord (running .nms 3 3 4 gradientsOnly).buf (16 + 4) = some 0x3F800000 ∧
      ((2 : Nat) : Int) = (4 : Nat) +
        (nmsOffsetsOfRatio 3 (fdiv (fsub 0x3F800000 0x3F000000) (fsub 0x3F800000 0x3F000000))).1 ∧
      ((6 : Nat) : Int) = (4 : Nat) +
        (nmsOffsetsOfRatio 3 (fdiv (fsub 0x3F800000 0x3F000000) (fsub 0x3F800000 0x3F000000))).2 ∧
      readWord (running .nms 3 3 4 gradientsOnly).buf (32 + 4) = none) := by
  refine ⟨⟨running_command _ _ _ (by decide), rfl⟩, ?_, ?_, ⟨running_command _ _ _ (by decide), by decide,
    running_command _ _ _ (by decide), by decide, rfl⟩, running_command _ _ _ (by decide), by decide +kernel⟩
  · exact fun i _ => ⟨running_command _ _ _ (by decide), by cases i <;> decide +kernel⟩
  · intro i _ k hk
    have hk' : k = 0 ∨ k = 4 := by simpa using hk
    rcases hk' with rfl | rfl
    all_goals exact ⟨running_command _ _ _ (by decide), by cases i <;> decide +kernel⟩

theorem witness_EngineStepIgnoresOperandRegisters (i : Instr) : RunningCommand i (running i 3 3 4 images) ∧
    ∃ t, exec i (running i 3 3 4 images) = .next t :=
  ⟨running_command _ _ _ (by decide), exists_next (by cases i <;> decide +kernel)⟩

/-- No pixel of a 3x3 image of ones faults, whatever the command. -/
theorem witness_CommandWritesEveryPixel (i : Instr) :
    let s := running i 3 3 0 images
    RunningCommand i s ∧ s.idx = 0 ∧ s.sched = [] ∧
    ∀ j < s.snap.n.toNat, ∃ u, exec i { s with idx := BitVec.ofNat 32 j } = .next u ∧ (u.st != .faulted) = true :=
  ⟨running_command _ _ _ (by decide), rfl, rfl, fun j hj => exists_nextWith (by
    have h9 : j < 9 := hj
    revert j
    cases i <;> decide +kernel)⟩

theorem witness_EveryCommandEnds (i : Instr) :
    let s := running i 3 3 0 images
    RunningCommand i s ∧ s.sched = [] ∧ SourcesDefined i s :=
  ⟨running_command _ _ _ (by decide), rfl, by
    intro k hk j hj
    refine Option.isSome_iff_exists.mp ?_
    have h9 : j < 9 := hj
    clear hj
    revert hk
    revert k
    revert j
    cases i <;> decide +kernel⟩

theorem witness_StepKeepsInvariant (i : Instr) : CoreInv (running i 3 3 4 images) ∧
    ∃ t, step (running i 3 3 4 images) = .next t :=
  ⟨plain_inv _ _ _ (by decide) images_wf.1 images_wf.2.1, exists_next (by cases i <;> decide +kernel)⟩

/-- Each stop of a step: an undefined word, a host write into the live source, one into the live destination. -/
theorem witness_EngineStaysInsideBuf :
    CoreInv { running .renorm 3 3 4 [] with sched := [], script := [] } ∧
    step { running .renorm 3 3 4 [] with sched := [], script := [] } = .fault (.undefinedWord 4) ∧
    CoreInv { running .renorm 3 3 4 [] with sched := [.host], script := [.writeBuf 32 8 0] } ∧
    step { running .renorm 3 3 4 [] with sched := [.host], script := [.writeBuf 32 8 0] } =
      .refused (.hostWritesLiveSource 8) ∧
    CoreInv { running .renorm 3 3 4 [] with sched := [.host], script := [.writeBuf 32 56 0] } ∧
    step { running .renorm 3 3 4 [] with sched := [.host], script := [.writeBuf 32 56 0] } =
      .refused (.hostWritesLiveDestination 56) :=
  ⟨running_inv _ _ _ _ _ (by decide) rfl (by simp), rfl, running_inv _ _ _ _ _ (by decide) rfl (by simp), rfl,
    running_inv _ _ _ _ _ (by decide) rfl (by simp), rfl⟩

/-- The five kinds of transition; the host's write of CMD is the head of the script and the host moves next. -/
theorem witness_ModeTransitions :
    (CoreInv { ready 1 3 [] with script := [.writeReg 32 0x0C 1] } ∧
      ∃ t, step { ready 1 3 [] with script := [.writeReg 32 0x0C 1] } = .next t ∧ t.st = .faulted) ∧
    (CoreInv { ready 3 3 [] with script := [.writeReg 32 0x0C 1] } ∧
      ∃ t, step { ready 3 3 [] with script := [.writeReg 32 0x0C 1] } = .next t ∧ t.st = .busy) ∧
    (CoreInv (running .nms 3 3 8 images) ∧ ∃ t, step (running .nms 3 3 8 images) = .next t ∧ (t.st == .idle) = true) ∧
    (CoreInv (running .nms 3 3 3 imagesN) ∧
      ∃ t, step (running .nms 3 3 3 imagesN) = .next t ∧ (t.st == .faulted) = true) ∧
    (CoreInv { running .nms 3 3 3 imagesN with sched := [.host], script := [.writeReg 32 0x04 1] } ∧
      ∃ t, step { running .nms 3 3 3 imagesN with sched := [.host], script := [.writeReg 32 0x04 1] } = .next t ∧
        t.st = .idle) :=
  ⟨⟨ready_inv _ _ _, _, rfl, by decide⟩, ⟨ready_inv _ _ _, _, rfl, by decide⟩,
    ⟨plain_inv _ _ _ (by decide) images_wf.1 images_wf.2.1, exists_nextWith (by decide +kernel)⟩,
    ⟨plain_inv _ _ _ (by decide) images_wf.2.2.1 images_wf.2.2.2, exists_nextWith (by decide +kernel)⟩,
    ⟨running_inv _ _ _ _ _ (by decide) images_wf.2.2.1 images_wf.2.2.2, _, rfl, by decide⟩⟩

/-- A fault stays, and a soft reset clears it. -/
theorem witness_FaultIsSticky :
    (raise .dim 0x00010001 State.reset).st = .faulted ∧
    (∃ t, step { raise .dim 0x00010001 State.reset with script := [.writeReg 32 0x0C 1] } = .next t ∧ t.st = .faulted) ∧
    (∃ t, step { raise .dim 0x00010001 State.reset with script := [.writeReg 32 0x04 1] } = .next t ∧ t.st = .idle) :=
  ⟨rfl, ⟨_, rfl, by decide⟩, ⟨_, rfl, by decide⟩⟩

theorem witness_FaultsArePrecise :
    (∃ t, step { State.reset with script := [.writeReg 32 0x0C 6] } = .next t ∧ t.st = .faulted) ∧
    (∃ t, step (running .nms 3 3 5 imagesN) = .next t ∧ (t.st == .faulted) = true) :=
  ⟨⟨_, rfl, by decide⟩, exists_nextWith (by decide +kernel)⟩

theorem witness_CommandWriteRefusedUnlessIdle :
    (running .magf 3 3 0 images).st ≠ .idle ∧ (raise .range 3 State.reset).st ≠ .idle ∧ Reg.src1 ≠ .cmd ∧
    Reg.src1 ≠ .ctrl := by decide

theorem witness_HardwareResetClearsEverything :
    nextAgent { State.reset with script := [.hardwareReset] } = .host ∧
    nextAgent { running .magf 3 3 0 images with sched := [.host], script := [.hardwareReset] } = .host := by decide

theorem witness_SoftResetKeepsBuf : (0x00000007 : Word).getLsbD 0 = true := by decide

/-- A state under the invariant, with BUSY alone. -/
theorem witness_StatusWordLayout :
    CoreInv (running .nms 3 3 4 images) ∧ (statusWord (running .nms 3 3 4 images)).extractLsb 2 0 = 0b001 :=
  ⟨plain_inv _ _ _ (by decide) images_wf.1 images_wf.2.1, by decide⟩

theorem witness_RegisterReadHasNoSideEffect :
    ∀ o ∈ [0x2C, 0x3C, 0x64, 0xFC], o % 4 = 0 ∧ ((0x2C ≤ o ∧ o ≤ 0x3C) ∨ (0x64 ≤ o ∧ o ≤ 0xFC)) := by decide

theorem witness_RegisterWriteTable :
    (0x00000001 : Word).getLsbD 0 = true ∧ (0x00000006 : Word).getLsbD 0 = false ∧ State.reset.st = .idle ∧
    decode 0x00000005 = .command .nms ∧ decode 0x00000006 = .illegal .reservedOp ∧
    (running .nms 3 3 4 images).st ≠ .idle ∧ 0x2C % 4 = 0 ∧ 0x3C % 4 = 0 ∧ 0x64 % 4 = 0 ∧ 0xFC % 4 = 0 := by decide

theorem witness_OperandRegistersReadBack : ∀ r ∈ [Reg.width, .height, .src0, .src1, .src2, .dst, .kreg 0, .kreg 8],
    r ≠ .id ∧ r ≠ .ctrl ∧ r ≠ .status ∧ r ≠ .cmd ∧ r ≠ .finfo := by decide

/-- The first and last offset of each reserved range. -/
theorem witness_ReservedReadsZeroWritesIgnored :
    ∀ o ∈ [0x2C, 0x3C, 0x64, 0xFC], o % 4 = 0 ∧ ((0x2C ≤ o ∧ o ≤ 0x3C) ∨ (0x64 ≤ o ∧ o ≤ 0xFC)) := by decide

theorem witness_InterruptLevel : (0x00000002 : Word).getLsbD 1 = true ∧ State.reset.st ≠ .faulted ∧
    (0 : Word).getLsbD 0 = false ∧ (0 : Word).getLsbD 1 = false ∧ (0 : Word).getLsbD 2 = false := by decide

/-- A narrow, a misaligned, an outside register access, and a BUF access past the end. -/
theorem witness_IllFormedAccessIsRefused :
    ∀ op ∈ [Stmt.readReg 16 0, .writeReg 32 2 1, .readReg 32 256, .writeBuf 8 0 1, .readBuf 32 65536],
      nextAgent { State.reset with script := [op] } = .host ∧ op.wf State.reset.bufWords = false := by decide

/-- Word 25, the first after a 3x3 source at 16, while a command runs. -/
theorem witness_HostBufWriteReadsBack :
    25 < (running .magf 3 3 0 images).bufWords ∧ inLiveDestination (running .magf 3 3 0 images) 25 = false ∧
    inLiveSource (running .magf 3 3 0 images) 25 = false := by decide

theorem witness_LiveRangesAreTheEngines : RunningCommand .nms (running .nms 3 3 4 images) ∧
    8 < (running .nms 3 3 4 images).snap.n.toNat ∧ Src.src2 ∈ usedSources .nms :=
  ⟨running_command _ _ _ (by decide), by decide, by decide⟩

theorem witness_WaitPollsUntilNotBusy :
    nextAgent { State.reset with script := [.wait] } = .host ∧ State.reset.st ≠ .busy ∧
    nextAgent { running .nms 3 3 4 [] with sched := [.host], script := [.wait] } = .host ∧
    (running .nms 3 3 4 []).st = .busy := by decide

theorem witness_PipelineStopsOnFault :
    nextAgent { State.reset with script := [.waitOrStop 3] } = .host ∧ State.reset.st = .idle ∧
    nextAgent { raise .dim 0 State.reset with script := [.waitOrStop 3] } = .host ∧
    (raise .dim 0 State.reset).st = .faulted ∧
    nextAgent { running .nms 3 3 4 [] with sched := [.host], script := [.waitOrStop 3] } = .host := by decide

theorem witness_IdleMachineWaits : State.reset.st ≠ .busy ∧ State.reset.script = [] ∧ State.reset.sched = [] := by decide

theorem witness_IndexOnlyAdvances : CoreInv (running .nms 3 3 8 images) ∧
    ∃ t, step (running .nms 3 3 8 images) = .next t ∧ (t.idx == 9) = true :=
  ⟨plain_inv _ _ _ (by decide) images_wf.1 images_wf.2.1, exists_nextWith (by decide +kernel)⟩

theorem witness_BufWordsNeverChanges : ∃ t, step (running .magx 3 3 8 images) = .next t :=
  exists_next (by decide +kernel)

/-- A NaN, both infinities, and finite words. -/
theorem witness_classes : IsNaN 0xFFC12345 ∧ IsNaN 0x7F800001 ∧ IsInf 0x7F800000 ∧ IsInf 0xFF800000 ∧
    IsFinite 0x7F7FFFFF ∧ IsFinite 0x80000001 := by
  simp [IsNaN, IsInf, IsFinite, expField, fracField]

theorem value_one : value 0x3F800000 = 1 := by
  simp [value, magnitude, isNeg, expField, fracField]
  norm_num

theorem value_minus_one : value 0xBF800000 = -1 := by
  simp [value, magnitude, isNeg, expField, fracField]
  norm_num

theorem value_minus_zero : value 0x80000000 = 0 := by
  simp [value, magnitude, isNeg, expField, fracField]

theorem value_least : value 0x00000001 = 1 / 2 ^ 149 := by
  simp [value, magnitude, isNeg, expField, fracField]

theorem value_minus_least : value 0x80000001 = -1 / 2 ^ 149 := by
  simp [value, magnitude, isNeg, expField, fracField]
  norm_num

theorem witness_AdditionIsCorrect : IsNaN 0x7FC00000 ∧ IsInf 0xFF800000 ∧ IsFinite 0x3F800000 ∧ IsFinite 0xBF800000 ∧
    value 0x3F800000 + value 0xBF800000 = 0 ∧ ¬IsNaN 0x3F800000 := by
  rw [value_one, value_minus_one]
  simp [IsNaN, IsInf, IsFinite, expField, fracField]

theorem witness_MultiplicationIsCorrect : IsNaN 0x7FC00000 ∧ IsInf 0xFF800000 ∧ IsFinite 0x80000000 ∧
    value 0x80000000 = 0 ∧ ¬IsNaN 0x3F800000 ∧ ¬(IsFinite 0x3F800000 ∧ value 0x3F800000 = 0) := by
  rw [value_one, value_minus_zero]
  simp [IsNaN, IsInf, IsFinite, expField, fracField]

theorem witness_DivisionIsCorrect : IsNaN 0x7FC00000 ∧ IsInf 0x7F800000 ∧ IsFinite 0x00000001 ∧ IsFinite 0x80000000 ∧
    value 0x80000000 = 0 ∧ value 0x00000001 ≠ 0 := by
  rw [value_minus_zero, value_least]
  simp [IsNaN, IsInf, IsFinite, expField, fracField]

theorem witness_SquareRootIsCorrect : IsNaN 0x7FC00000 ∧ IsFinite 0x80000001 ∧ value 0x80000001 < 0 ∧
    IsFinite 0x3F800000 ∧ 0 < value 0x3F800000 ∧ IsFinite 0x00000001 ∧ 0 < value 0x00000001 := by
  rw [value_minus_least, value_one, value_least]
  refine ⟨?_, ?_, by norm_num, ?_, by norm_num, ?_, by positivity⟩ <;> simp [IsNaN, IsFinite, expField, fracField]

theorem witness_ComparisonsAreExact : IsNaN 0x7FC00000 ∧ IsFinite 0x80000000 ∧ IsFinite 0x7F7FFFFF := by
  simp [IsNaN, IsFinite, expField, fracField]

/-- Each primitive returns a NaN for some operands. -/
theorem witness_EveryNaNResultIsCanonical : IsNaN (fadd 0x7F800000 0xFF800000) ∧ IsNaN (fsub 0x7F800000 0x7F800000) ∧
    IsNaN (fmul 0 0x7F800000) ∧ IsNaN (fdiv 0 0) ∧ IsNaN (fsqrt 0xBF800000) := by
  have h : fadd 0x7F800000 0xFF800000 = 0x7FC00000 ∧ fsub 0x7F800000 0x7F800000 = 0x7FC00000 ∧
    fmul 0 0x7F800000 = 0x7FC00000 ∧ fdiv 0 0 = 0x7FC00000 ∧ fsqrt 0xBF800000 = 0x7FC00000 := by decide +kernel
  rw [h.1, h.2.1, h.2.2.1, h.2.2.2.1, h.2.2.2.2]
  simp [IsNaN, expField, fracField]

/-- The least image and its four corners, and the inside of a 3x3 one. -/
theorem witness_TapsAreTheExistingNeighbours :
    (∀ p ∈ [((0 : Nat), (0 : Nat)), (0, 1), (1, 0), (1, 1)], 2 ≤ 2 ∧ p.1 < 2 ∧ p.2 < 2) ∧ 2 ≤ 3 ∧ 1 < 3 := by decide

theorem witness_BucketsByBounds : IsNaN 0x7FC00000 ∧ IsInf 0xFF800000 ∧ IsFinite 0x3E8A3D71 ∧ IsFinite 0xC043D70A := by
  simp [IsNaN, IsInf, IsFinite, expField, fracField]

theorem witness_UniformHalfHasNoInteriorGradient : ∀ t : Nat × Nat, (fun _ : Nat × Nat => (0x3F000000 : Word)) t = 0x3F000000 :=
  fun _ => rfl

end Sys2Proof.Tests
end

/-! SUPPORT. What one step does to CORE, said once: the host's own fields (its script, the coming turns, its notes)
apart, every step that answers a next state is one of the moves of `CoreMove`. -/

namespace Sys2Proof.Machine

/-! ## The host's own fields -/

/-- `t` is `s` but for the fields that are no part of CORE: the host's script, the coming turns and the notes (log 2,
log 3). -/
def HostOnly (s t : State) : Prop :=
  ∃ script sched noted, t = { s with script := script, sched := sched, noted := noted }

theorem HostOnly.refl (s : State) : HostOnly s s := ⟨_, _, _, rfl⟩

theorem HostOnly.note (r : Reply) (s : State) : HostOnly s (note r s) := ⟨_, _, _, rfl⟩

theorem HostOnly.hostReadReg (bits o : Nat) (s : State) : HostOnly s (hostReadReg bits o s) := by
  unfold Machine.hostReadReg
  split
  · exact .note _ s
  · exact .note _ s

theorem HostOnly.hostReadBuf (bits a : Nat) (s : State) : HostOnly s (hostReadBuf bits a s) := by
  unfold Machine.hostReadBuf
  split
  · exact .note _ s
  · exact .note _ s

/-- A poll whose continuation keeps to the host's own fields keeps to them. -/
theorem HostOnly.poll (again : Stmt) {after : State → State} (hafter : ∀ u, HostOnly u (after u)) (s : State) :
    HostOnly s (poll again after s) := by
  rcases poll_cases again after s with ⟨_, he⟩ | ⟨_, he⟩
  · rw [he]
    exact ⟨_, _, _, rfl⟩
  · rw [he]
    obtain ⟨script, sched, noted, ha⟩ := hafter (Machine.note (.value (statusWord s)) s)
    exact ⟨script, sched, noted, ha⟩

theorem HostOnly.stopOnFault (rest : Nat) (s : State) : HostOnly s (stopOnFault rest s) := by
  unfold Machine.stopOnFault
  split
  · exact ⟨_, _, _, rfl⟩
  · exact .refl s

/-! ## Register offsets and command words -/

/-- The register at an offset has that offset (R21). -/
theorem regOffset_of_regAt {o : Nat} {r : Reg} (h : regAt o = some r) : o = regOffset r := by
  unfold regAt at h
  split at h
  case h_12 =>
    unfold kregAt at h
    split at h
    next ho =>
      cases h
      simp only [regOffset]
      omega
    · cases h
  all_goals
    cases h
    rfl

/-- An accepted register access is a whole word (R65). -/
theorem bits_of_regAccessOk {bits o : Nat} (h : regAccessOk bits o = true) : bits = 32 := by
  simp only [regAccessOk, Bool.and_eq_true, decide_eq_true_eq] at h
  obtain ⟨⟨hbits, _⟩, _⟩ := h
  exact hbits

/-- The three fields of a word put together again (R90). -/
theorem packFormat_formatOf (w : Word) : packFormat (formatOf w) = w := by
  unfold packFormat formatOf BitVec.extractLsb
  simp only
  rw [BitVec.extractLsb'_append_extractLsb'_eq_extractLsb' (by omega),
    BitVec.extractLsb'_append_extractLsb'_eq_extractLsb' (by omega)]
  exact BitVec.extractLsb'_eq_self

/-- The kernel select of a convolution is the one its fields hold (R92). -/
theorem fieldsOf_convOfKsel (k : BitVec 2) : fieldsOf (convOfKsel k) = ⟨0, k, 1⟩ := by
  revert k
  decide

theorem plainCommand_eq_command {k : BitVec 2} {i j : Instr} (h : plainCommand k i = .command j) : k = 0 ∧ i = j := by
  unfold plainCommand at h
  split at h
  next hk =>
    cases h
    exact ⟨hk, rfl⟩
  · cases h

/-- The fields of a word that decodes are those of its command (R93). -/
theorem formatOf_of_decode {w : Word} {i : Instr} (h : decode w = .command i) : formatOf w = fieldsOf i := by
  unfold decode at h
  generalize formatOf w = f at h ⊢
  obtain ⟨zero, ksel, op⟩ := f
  simp only at h
  split at h
  · cases h
  next hz =>
    obtain rfl : zero = 0 := not_not.mp hz
    split at h
    next ho =>
      cases h
      rw [fieldsOf_convOfKsel, ho]
    next =>
      iterate 4
        split at h
        next ho =>
          obtain ⟨rfl, rfl⟩ := plainCommand_eq_command h
          rw [ho]
          rfl
      cases h

/-- A word that decodes to a command is that command's word (R93). -/
theorem eq_encode_of_decode {w : Word} {i : Instr} (h : decode w = .command i) : w = encode i := by
  rw [encode, ← formatOf_of_decode h, packFormat_formatOf]

/-! ## The moves -/

/-- What a move does to CORE in state `u`, by which agent and with which script of the host. -/
inductive CoreMove (u : State) : Agent → List Stmt → State → Prop
  /-- A read, a poll, a refused access, a write at a reserved offset, or a turn with nothing to do. -/
  | quiet {a : Agent} {script : List Stmt} {t : State} (same : HostOnly u t) : CoreMove u a script t
  /-- A host write of a register other than CMD (R275). -/
  | writeReg {r : Reg} {v : Word} {rest : List Stmt} (not_cmd : r ≠ .cmd) :
      CoreMove u .host (.writeReg 32 (regOffset r) v :: rest) (regWrite r v u)
  /-- A refused write of CMD (R38). -/
  | refuse {w : Word} {rest : List Stmt} (not_idle : u.st ≠ .idle) :
      CoreMove u .host (.writeReg 32 0x0C w :: rest) (refuseCommand u)
  /-- The issue of a word that is no command (R261). -/
  | illegal {w : Word} {why : Illegal} {rest : List Stmt} (idle : u.st = .idle) (decoded : decode w = .illegal why) :
      CoreMove u .host (.writeReg 32 0x0C w :: rest) (raise .illCmd w (acceptCommand w u))
  /-- The issue of a command whose operands fail a check (R262 to R264). -/
  | issueFault {i : Instr} {f : CoreFault} {info : Word} {rest : List Stmt} (idle : u.st = .idle)
      (check : issueCheck i (acceptCommand (encode i) u) = some (f, info)) :
      CoreMove u .host (.writeReg 32 0x0C (encode i) :: rest) (raise f info (acceptCommand (encode i) u))
  /-- A successful issue (R272). -/
  | launch {i : Instr} {rest : List Stmt} (idle : u.st = .idle)
      (legal : OperandsLegal i (acceptCommand (encode i) u)) :
      CoreMove u .host (.writeReg 32 0x0C (encode i) :: rest) (launch i (acceptCommand (encode i) u))
  /-- A host write of a BUF word outside the live ranges (R65, R72). -/
  | writeBuf {bits a : Nat} {v : Word} {rest : List Stmt} (inside : a < u.bufWords)
      (not_destination : inLiveDestination u a = false) (not_source : inLiveSource u a = false) :
      CoreMove u .host (.writeBuf bits a v :: rest) { u with buf := writeWord u.buf a v }
  /-- Hardware reset (R301). -/
  | hardwareReset {rest : List Stmt} : CoreMove u .host (.hardwareReset :: rest) (hardwareReset u)
  /-- An engine step that writes its pixel (R273). -/
  | pixel {i : Instr} {v : Word} {script : List Stmt} (busy : u.st = .busy) (running : latched u = .command i)
      (value : pixelFn i u = .word v) (inside : u.snap.dst.toNat + u.idx.toNat < u.bufWords) :
      CoreMove u .engine script (commitPixel v u)
  /-- An engine step of NMS whose neighbour is outside the image (R216). -/
  | nmsOob {script : List Stmt} (busy : u.st = .busy) (running : latched u = .command .nms)
      (outside : pixelFn .nms u = .nmsOob) : CoreMove u .engine script (raise .nmsOob u.idx u)

/-- A host write of CMD that answers a next state is a refusal, an illegal word's fault, or an issue. -/
theorem coreMove_of_writeCmd {u t : State} {w : Word} {rest : List Stmt} (h : writeCmd w u = .next t) :
    CoreMove u .host (.writeReg 32 0x0C w :: rest) t := by
  by_cases hidle : u.st = .idle
  · cases hd : decode w with
    | illegal why =>
      rw [writeCmd_illegal hidle hd] at h
      cases h
      exact .illegal hidle hd
    | command i =>
      rw [writeCmd_idle hidle hd, exec_idle hidle] at h
      cases h
      rw [eq_encode_of_decode hd]
      rcases issue_cases i u with ⟨f, info, hc, he⟩ | ⟨hl, he⟩
      · rw [he]
        exact .issueFault hidle hc
      · rw [he]
        exact .launch hidle hl
  · rw [writeCmd_refused hidle] at h
    cases h
    exact .refuse hidle

theorem coreMove_of_hostWriteReg {u t : State} {bits o : Nat} {v : Word} {rest : List Stmt}
    (h : hostWriteReg bits o v u = .next t) : CoreMove u .host (.writeReg bits o v :: rest) t := by
  rcases hostWriteReg_cases bits o v u with ⟨_, he⟩ | ⟨ha, hr, he⟩ | ⟨ha, r, hne, hr, he⟩ | ⟨_, _, he⟩
  · rw [he] at h
    cases h
    exact .quiet (.note _ u)
  · rw [he] at h
    obtain rfl := bits_of_regAccessOk ha
    obtain rfl := regOffset_of_regAt hr
    exact coreMove_of_writeCmd h
  · rw [he] at h
    cases h
    obtain rfl := bits_of_regAccessOk ha
    obtain rfl := regOffset_of_regAt hr
    exact .writeReg hne
  · rw [he] at h
    cases h
    exact .quiet (.refl u)

theorem coreMove_of_hostWriteBuf {u t : State} {bits a : Nat} {v : Word} {rest : List Stmt}
    (h : hostWriteBuf bits a v u = .next t) : CoreMove u .host (.writeBuf bits a v :: rest) t := by
  rcases hostWriteBuf_cases bits a v u with ⟨_, he⟩ | ⟨_, _, he⟩ | ⟨_, _, he⟩ | ⟨ha, hd, hs, he⟩
  · rw [he] at h
    cases h
    exact .quiet (.note _ u)
  · rw [he] at h
    cases h
  · rw [he] at h
    cases h
  · rw [he] at h
    cases h
    exact .writeBuf ha hd hs

/-- The statement at the head of the script, by its kind. -/
theorem coreMove_of_runStmt {u t : State} {op : Stmt} {rest : List Stmt} (h : runStmt op u = .next t) :
    CoreMove u .host (op :: rest) t := by
  cases op with
  | readReg bits o =>
    cases h
    exact .quiet (.hostReadReg bits o u)
  | writeReg bits o v => exact coreMove_of_hostWriteReg h
  | readBuf bits a =>
    cases h
    exact .quiet (.hostReadBuf bits a u)
  | writeBuf bits a v => exact coreMove_of_hostWriteBuf h
  | wait =>
    cases h
    exact .quiet (.poll _ .refl u)
  | waitOrStop n =>
    cases h
    exact .quiet (.poll _ (.stopOnFault n) u)
  | hardwareReset =>
    cases h
    exact .hardwareReset

theorem coreMove_of_engineTurn {u t : State} {script : List Stmt} (h : engineTurn u = .next t) :
    CoreMove u .engine script t := by
  rcases engineTurn_cases u with ⟨_, he⟩ | ⟨i, hbusy, hl, he⟩ | ⟨_, _, he⟩
  · rw [he] at h
    cases h
    exact .quiet (.refl u)
  · rw [he, exec_busy hbusy hl] at h
    rcases engineStep_cases (pixelFn i) u with ⟨v, hv, hb, he⟩ | ⟨hp, he⟩ | ⟨f, he, _⟩
    · rw [he] at h
      cases h
      exact .pixel hbusy hl hv hb
    · rw [he] at h
      cases h
      obtain rfl := pixelFn_nmsOob hp
      exact .nmsOob hbusy hl hp
    · rw [he] at h
      cases h
  · rw [he] at h
    cases h

/-- Every step that answers a next state: the turn and the statement are taken off, and CORE makes one move. -/
theorem coreMove_of_step {s t : State} (h : step s = .next t) :
    ∃ u, HostOnly s u ∧ CoreMove u (nextAgent s) s.script t := by
  rcases step_cases s with ⟨ha, he⟩ | ⟨ha, he⟩
  · rw [he, hostTurn] at h
    rw [ha]
    cases hs : s.script with
    | nil =>
      simp only [popTurn_script, hs] at h
      cases h
      exact ⟨popTurn s, ⟨_, _, _, rfl⟩, .quiet (.refl _)⟩
    | cons op rest =>
      simp only [popTurn_script, hs] at h
      exact ⟨{ popTurn s with script := rest }, ⟨_, _, _, rfl⟩, coreMove_of_runStmt h⟩
  · rw [he] at h
    rw [ha]
    exact ⟨popTurn s, ⟨_, _, _, rfl⟩, coreMove_of_engineTurn h⟩

end Sys2Proof.Machine

/-! SUPPORT and CERTIFICATES. What every step keeps: BUF_WORDS, the invariant of `CoreInv`; the transitions of the mode
and of IDX. Each is a case analysis of `CoreMove`. -/

namespace Sys2Proof.Machine

/-! ## What a register write can change -/

/-- `t` has the fields of `s` that no register write but a soft reset's changes, and sets no DONE. -/
structure KeepsProgress (s t : State) : Prop where
  st : t.st = s.st
  snap : t.snap = s.snap
  idx : t.idx = s.idx
  buf : t.buf = s.buf
  bufWords : t.bufWords = s.bufWords
  fcode : t.fcode = s.fcode
  finfo : t.finfo = s.finfo
  done : t.done = true → s.done = true

theorem HostOnly.keepsProgress {s t : State} (h : HostOnly s t) : KeepsProgress s t := by
  obtain ⟨_, _, _, rfl⟩ := h
  exact ⟨rfl, rfl, rfl, rfl, rfl, rfl, rfl, id⟩

theorem writeCtrl_of_bit0 {v : Word} (h : v.getLsbD 0 = true) (s : State) : writeCtrl v s = softReset s := if_pos h

theorem writeCtrl_of_not_bit0 {v : Word} (h : v.getLsbD 0 = false) (s : State) :
    writeCtrl v s = { s with ieDone := v.getLsbD 1, ieFault := v.getLsbD 2 } :=
  if_neg (Bool.eq_false_iff.mp h)

/-- A write of a register other than CMD is a soft reset or leaves the command in progress alone (R275). -/
theorem regWrite_cases (r : Reg) (v : Word) (s : State) :
    (r = .ctrl ∧ v.getLsbD 0 = true ∧ regWrite r v s = softReset s) ∨ KeepsProgress s (regWrite r v s) := by
  cases r with
  | ctrl =>
    cases h : v.getLsbD 0 with
    | true => exact .inl ⟨rfl, rfl, writeCtrl_of_bit0 h s⟩
    | false =>
      rw [regWrite, writeCtrl_of_not_bit0 h]
      exact .inr ⟨rfl, rfl, rfl, rfl, rfl, rfl, rfl, id⟩
  | status => exact .inr ⟨rfl, rfl, rfl, rfl, rfl, rfl, rfl, by simp +contextual [regWrite]⟩
  | _ => exact .inr ⟨rfl, rfl, rfl, rfl, rfl, rfl, rfl, id⟩

theorem keepsProgress_refuseCommand (s : State) : KeepsProgress s (refuseCommand s) :=
  ⟨rfl, rfl, rfl, rfl, rfl, rfl, rfl, id⟩

theorem keepsProgress_acceptCommand (w : Word) (s : State) : KeepsProgress s (acceptCommand w s) :=
  ⟨rfl, rfl, rfl, rfl, rfl, rfl, rfl, by simp⟩

/-! ## The invariant under each move -/

theorem RunningCommand.of_keepsProgress {i : Instr} {s t : State} (h : RunningCommand i s) (k : KeepsProgress s t) :
    RunningCommand i t := by
  constructor
  case busy => rw [k.st, h.busy]
  all_goals rw [k.snap]
  case op_latched => exact h.op_latched
  case ksel_latched => exact h.ksel_latched
  case width_two => exact h.width_two
  case height_two => exact h.height_two
  case count => exact h.count
  case index_below => rw [k.idx]; exact h.index_below
  case sources_inside => rw [k.bufWords]; exact h.sources_inside
  case destination_inside => rw [k.bufWords]; exact h.destination_inside
  case no_overlap => exact h.no_overlap
  case mean_kernel => exact h.mean_kernel
  case sobelX_kernel => exact h.sobelX_kernel
  case sobelY_kernel => exact h.sobelY_kernel

theorem CoreInv.of_keepsProgress {s t : State} (h : CoreInv s) (k : KeepsProgress s t) : CoreInv t where
  bufWords_pos := k.bufWords ▸ h.bufWords_pos
  bufWords_le := k.bufWords ▸ h.bufWords_le
  buf_wf := k.buf ▸ h.buf_wf
  buf_inside := by
    rw [k.buf, k.bufWords]
    exact h.buf_inside
  done_idle hd := by
    rw [k.st]
    exact h.done_idle (k.done hd)
  fcode_clear hst := by
    rw [k.fcode]
    exact h.fcode_clear (k.st ▸ hst)
  fcode_legal hst := by
    rw [k.fcode]
    exact h.fcode_legal (k.st ▸ hst)
  finfo_clear hst := by
    rw [k.finfo]
    exact h.finfo_clear (k.st ▸ hst)
  busy_running hst := by
    obtain ⟨i, hi⟩ := h.busy_running (k.st ▸ hst)
    exact ⟨i, hi.of_keepsProgress k⟩

/-- The codes of the five faults are 1 to 5 (R260). -/
theorem CoreFault.code_legal (f : CoreFault) : 1 ≤ f.code.toNat ∧ f.code.toNat ≤ 5 := by
  cases f <;> decide

/-- While BUSY, DONE is 0. -/
theorem CoreInv.done_of_busy {s : State} (h : CoreInv s) (hbusy : s.st = .busy) : s.done = false := by
  cases hd : s.done with
  | false => rfl
  | true =>
    rw [h.done_idle hd] at hbusy
    cases hbusy

/-- Fault entry with DONE = 0 keeps the invariant. -/
theorem CoreInv.raise {s : State} (h : CoreInv s) (hdone : s.done = false) (f : CoreFault) (info : Word) :
    CoreInv (raise f info s) where
  bufWords_pos := h.bufWords_pos
  bufWords_le := h.bufWords_le
  buf_wf := h.buf_wf
  buf_inside := h.buf_inside
  done_idle hd := by simp [hdone] at hd
  fcode_clear hst := absurd rfl hst
  fcode_legal _ := f.code_legal
  finfo_clear hst := absurd rfl hst
  busy_running hst := by cases hst

/-- The latched bases are the source registers. -/
theorem latchedSrc_snapshotOf (i : Instr) (s : State) (k : Src) : latchedSrc (snapshotOf i s) k = srcReg s k := by
  cases k <;> rfl

/-- L_N is N: a product of two 16-bit numbers fits in 32 bits (R13, R33). -/
theorem snapshotOf_n_toNat (i : Instr) (s : State) : (snapshotOf i s).n.toNat = pixelCount s := by
  have hlt : s.width.toNat * s.height.toNat < 2 ^ 16 * 2 ^ 16 := Nat.mul_lt_mul'' s.width.isLt s.height.isLt
  simp only [snapshotOf, pixelCount, BitVec.toNat_ofNat]
  exact Nat.mod_eq_of_lt (by simpa using hlt)

theorem fieldsOf_eq_extract (i : Instr) :
    (fieldsOf i).op = (encode i).extractLsb 3 0 ∧ (fieldsOf i).ksel = (encode i).extractLsb 5 4 := by
  cases i <;> decide

/-- A launch on legal operands starts the command (R272). -/
theorem OperandsLegal.runningCommand_launch {i : Instr} {s : State} (h : OperandsLegal i s) :
    RunningCommand i (launch i s) where
  busy := rfl
  op_latched := (fieldsOf_eq_extract i).1
  ksel_latched := (fieldsOf_eq_extract i).2
  width_two := h.width_two
  height_two := h.height_two
  count := snapshotOf_n_toNat i s
  index_below := by
    rw [launch_snap, snapshotOf_n_toNat]
    exact Nat.mul_pos (by have := h.width_two; omega) (by have := h.height_two; omega)
  sources_inside k hk := by
    rw [launch_snap, latchedSrc_snapshotOf, snapshotOf_n_toNat]
    exact h.sources_inside k hk
  destination_inside := by
    rw [launch_snap, snapshotOf_n_toNat]
    exact h.destination_inside
  no_overlap k hk := by
    rw [launch_snap, latchedSrc_snapshotOf, snapshotOf_n_toNat]
    exact h.no_overlap k hk
  mean_kernel hi := by subst hi; rfl
  sobelX_kernel hi := by subst hi; rfl
  sobelY_kernel hi := by subst hi; rfl

theorem CoreInv.launch {i : Instr} {s : State} (h : CoreInv s) (hidle : s.st = .idle) (hdone : s.done = false)
    (hlegal : OperandsLegal i s) : CoreInv (launch i s) where
  bufWords_pos := h.bufWords_pos
  bufWords_le := h.bufWords_le
  buf_wf := h.buf_wf
  buf_inside := h.buf_inside
  done_idle hd := by simp [hdone] at hd
  fcode_clear _ := h.fcode_clear (by simp [hidle])
  fcode_legal hst := by cases hst
  finfo_clear _ := h.finfo_clear (by simp [hidle])
  busy_running _ := ⟨i, hlegal.runningCommand_launch⟩

theorem CoreInv.softReset {s : State} (h : CoreInv s) : CoreInv (softReset s) where
  bufWords_pos := h.bufWords_pos
  bufWords_le := h.bufWords_le
  buf_wf := h.buf_wf
  buf_inside := h.buf_inside
  done_idle _ := rfl
  fcode_clear _ := rfl
  fcode_legal hst := by cases hst
  finfo_clear _ := rfl
  busy_running hst := by cases hst

/-- A word write inside BUF keeps BUF inside BUF_WORDS. -/
theorem writeWord_inside {m : Memory} {n a : Nat} (v : Word) (hm : ∀ c ∈ m, c.1 < 4 * n) (ha : a < n) :
    ∀ c ∈ writeWord m a v, c.1 < 4 * n := by
  intro c hc
  rcases mem_writeWord hc with hc | ⟨_, hlt⟩
  · exact hm c hc
  · omega

/-- BUF may be replaced by any other in canonical form inside BUF_WORDS. -/
theorem CoreInv.with_buf {s : State} (h : CoreInv s) {m : Memory} (hwf : Memory.wf m = true)
    (hm : ∀ c ∈ m, c.1 < 4 * s.bufWords) : CoreInv { s with buf := m } where
  bufWords_pos := h.bufWords_pos
  bufWords_le := h.bufWords_le
  buf_wf := hwf
  buf_inside := hm
  done_idle := h.done_idle
  fcode_clear := h.fcode_clear
  fcode_legal := h.fcode_legal
  finfo_clear := h.finfo_clear
  busy_running hst := by
    obtain ⟨i, hi⟩ := h.busy_running hst
    exact ⟨i, { hi with }⟩

/-- With the last pixel CORE is idle and DONE (R273). -/
theorem commitPixel_last {s : State} (hlast : s.idx + 1 = s.snap.n) (v : Word) :
    (commitPixel v s).st = .idle ∧ (commitPixel v s).done = true :=
  ⟨if_pos hlast, if_pos hlast⟩

/-- With any other pixel the mode and DONE stay. -/
theorem commitPixel_not_last {s : State} (hlast : s.idx + 1 ≠ s.snap.n) (v : Word) :
    (commitPixel v s).st = s.st ∧ (commitPixel v s).done = s.done :=
  ⟨if_neg hlast, if_neg hlast⟩

/-- A command of which a pixel but the last is done is still running. -/
theorem RunningCommand.commitPixel {i : Instr} {s : State} (h : RunningCommand i s) (v : Word)
    (hlast : s.idx + 1 ≠ s.snap.n) : RunningCommand i (commitPixel v s) where
  busy := by rw [(commitPixel_not_last hlast v).1, h.busy]
  op_latched := h.op_latched
  ksel_latched := h.ksel_latched
  width_two := h.width_two
  height_two := h.height_two
  count := h.count
  index_below := by
    have := h.index_below
    have := mt h.last_iff.mpr hlast
    rw [commitPixel_idx, commitPixel_snap, h.index_succ]
    omega
  sources_inside := h.sources_inside
  destination_inside := h.destination_inside
  no_overlap := h.no_overlap
  mean_kernel := h.mean_kernel
  sobelX_kernel := h.sobelX_kernel
  sobelY_kernel := h.sobelY_kernel

/-- After a pixel CORE is idle, with the last one, or busy as before. -/
theorem commitPixel_not_faulted {s : State} (hbusy : s.st = .busy) (v : Word) : (commitPixel v s).st ≠ .faulted := by
  by_cases hlast : s.idx + 1 = s.snap.n
  · rw [(commitPixel_last hlast v).1]
    decide
  · rw [(commitPixel_not_last hlast v).1, hbusy]
    decide

theorem CoreInv.commitPixel {s : State} (h : CoreInv s) (hbusy : s.st = .busy) (v : Word)
    (hinside : s.snap.dst.toNat + s.idx.toNat < s.bufWords) : CoreInv (commitPixel v s) where
  bufWords_pos := h.bufWords_pos
  bufWords_le := h.bufWords_le
  buf_wf := writeWord_wf _ _ h.buf_wf
  buf_inside := writeWord_inside v h.buf_inside hinside
  done_idle hd := by
    by_cases hlast : s.idx + 1 = s.snap.n
    · exact (commitPixel_last hlast v).1
    · rw [(commitPixel_not_last hlast v).2, h.done_of_busy hbusy] at hd
      cases hd
  fcode_clear _ := h.fcode_clear (by simp [hbusy])
  fcode_legal hst := absurd hst (commitPixel_not_faulted hbusy v)
  finfo_clear _ := h.finfo_clear (by simp [hbusy])
  busy_running hst := by
    obtain ⟨i, hi⟩ := h.busy_running hbusy
    refine ⟨i, hi.commitPixel v ?_⟩
    intro hlast
    rw [(commitPixel_last hlast v).1] at hst
    cases hst

/-- Every move keeps the invariant. -/
theorem CoreInv.of_coreMove {u t : State} {a : Agent} {script : List Stmt} (h : CoreInv u)
    (m : CoreMove u a script t) : CoreInv t := by
  have haccept (w : Word) : CoreInv (acceptCommand w u) := h.of_keepsProgress (keepsProgress_acceptCommand w u)
  cases m with
  | quiet same => exact h.of_keepsProgress same.keepsProgress
  | @writeReg r v _ _ =>
    rcases regWrite_cases r v u with ⟨_, _, he⟩ | k
    · rw [he]
      exact h.softReset
    · exact h.of_keepsProgress k
  | refuse _ => exact h.of_keepsProgress (keepsProgress_refuseCommand u)
  | illegal _ _ => exact (haccept _).raise rfl _ _
  | issueFault _ _ => exact (haccept _).raise rfl _ _
  | launch hidle hlegal => exact (haccept _).launch hidle rfl hlegal
  | writeBuf hinside _ _ => exact h.with_buf (writeWord_wf _ _ h.buf_wf) (writeWord_inside _ h.buf_inside hinside)
  | hardwareReset => exact h.softReset.with_buf rfl (by simp)
  | pixel hbusy _ _ hinside => exact h.commitPixel hbusy _ hinside
  | nmsOob hbusy _ _ => exact h.raise (h.done_of_busy hbusy) _ _

/-- Settles O22: the invariant passes to the state with turn and statement taken off, and every move keeps it. -/
theorem stepKeepsInvariant : Obligations.StepKeepsInvariant := by
  intro s t h hstep
  obtain ⟨u, hu, m⟩ := coreMove_of_step hstep
  exact (h.of_keepsProgress hu.keepsProgress).of_coreMove m

/-- Settles O23: the reset state meets each clause of the invariant by its value. -/
theorem resetHasInvariant : Obligations.ResetHasInvariant where
  bufWords_pos := by decide
  bufWords_le := by decide
  buf_wf := reset_buf_wf
  buf_inside := by simp [State.reset]
  done_idle _ := rfl
  fcode_clear _ := rfl
  fcode_legal hst := by cases hst
  finfo_clear _ := rfl
  busy_running hst := by cases hst

/-! ## BUF_WORDS -/

theorem bufWords_of_coreMove {u t : State} {a : Agent} {script : List Stmt} (m : CoreMove u a script t) :
    t.bufWords = u.bufWords := by
  cases m with
  | quiet same => exact same.keepsProgress.bufWords
  | @writeReg r v _ _ =>
    rcases regWrite_cases r v u with ⟨_, _, he⟩ | k
    · rw [he, softReset_bufWords]
    · exact k.bufWords
  | _ => rfl

/-- Settles O24: no move changes BUF_WORDS. -/
theorem bufWordsNeverChanges : Obligations.BufWordsNeverChanges := by
  intro s t hstep
  obtain ⟨u, hu, m⟩ := coreMove_of_step hstep
  rw [bufWords_of_coreMove m, hu.keepsProgress.bufWords]

/-! ## IDX -/

/-- IDX after a move: as before, 0, or one more by the engine (R34). -/
theorem idx_of_coreMove {u t : State} {a : Agent} {script : List Stmt} (h : CoreInv u) (m : CoreMove u a script t) :
    t.idx = u.idx ∨ t.idx = 0 ∨
      (u.st = .busy ∧ a = .engine ∧ t.idx.toNat = u.idx.toNat + 1 ∧ t.idx.toNat ≤ u.snap.n.toNat) := by
  cases m with
  | quiet same => exact .inl same.keepsProgress.idx
  | @writeReg r v _ _ =>
    rcases regWrite_cases r v u with ⟨_, _, he⟩ | k
    · exact .inr (.inl (by rw [he, softReset_idx]))
    · exact .inl k.idx
  | launch _ _ => exact .inr (.inl rfl)
  | hardwareReset => exact .inr (.inl rfl)
  | pixel hbusy _ _ _ =>
    obtain ⟨i, hi⟩ := h.busy_running hbusy
    have := hi.index_below
    refine .inr (.inr ⟨hbusy, rfl, ?_⟩)
    rw [commitPixel_idx, hi.index_succ]
    omega
  | _ => exact .inl rfl

/-- Settles O46: by the moves; that IDX stays at most L_N is the invariant's bound on a running command. -/
theorem indexOnlyAdvances : Obligations.IndexOnlyAdvances := by
  intro s t h hstep
  obtain ⟨u, hu, m⟩ := coreMove_of_step hstep
  have k := hu.keepsProgress
  have hidx := idx_of_coreMove (h.of_keepsProgress k) m
  rwa [k.idx, k.st, k.snap] at hidx

/-! ## The mode -/

/-- An issue's checks give a code from 2 to 4 (R260, R266). -/
theorem issueCheck_code {i : Instr} {s : State} {f : CoreFault} {info : Word}
    (h : issueCheck i s = some (f, info)) : 2 ≤ f.code.toNat ∧ f.code.toNat ≤ 4 := by
  rcases issueCheck_fault h with rfl | rfl | rfl <;> decide

/-- The moves that change the mode, each with its agent, the head of the script and its effect (R32, R303). -/
theorem mode_of_coreMove {u t : State} {a : Agent} {script : List Stmt} (m : CoreMove u a script t)
    (hne : u.st ≠ t.st) :
    (u.st = .idle ∧ t.st = .busy ∧ a = .host ∧
      (∃ i rest, script = .writeReg 32 0x0C (encode i) :: rest ∧ t.cmd = encode i ∧ RunningCommand i t) ∧
      t.idx = 0) ∨
    (u.st = .idle ∧ t.st = .faulted ∧ a = .host ∧
      (∃ w rest, script = .writeReg 32 0x0C w :: rest ∧ t.cmd = w) ∧ 1 ≤ t.fcode.toNat ∧ t.fcode.toNat ≤ 4) ∨
    (u.st = .busy ∧ t.st = .idle ∧ a = .engine ∧ t.done = true ∧ t.idx = u.snap.n) ∨
    (u.st = .busy ∧ t.st = .faulted ∧ a = .engine ∧ latched u = .command .nms ∧ t.fcode = 5) ∨
    (t.st = .idle ∧ a = .host ∧
      ∃ op rest, script = op :: rest ∧
        (op = .hardwareReset ∨ ∃ v, op = .writeReg 32 0x04 v ∧ v.getLsbD 0 = true)) := by
  cases m with
  | quiet same => exact absurd same.keepsProgress.st.symm hne
  | @writeReg r v rest _ =>
    rcases regWrite_cases r v u with ⟨rfl, hv, he⟩ | k
    · exact .inr (.inr (.inr (.inr ⟨by rw [he, softReset_st], rfl, _, rest, rfl, .inr ⟨v, rfl, hv⟩⟩)))
    · exact absurd k.st.symm hne
  | refuse _ => exact absurd rfl hne
  | illegal hidle _ => exact .inr (.inl ⟨hidle, rfl, rfl, ⟨_, _, rfl, rfl⟩, by simp [CoreFault.code]⟩)
  | issueFault hidle hcheck =>
    obtain ⟨hlo, hhi⟩ := issueCheck_code hcheck
    exact .inr (.inl ⟨hidle, rfl, rfl, ⟨_, _, rfl, rfl⟩, Nat.le_of_succ_le hlo, hhi⟩)
  | launch hidle hlegal => exact .inl ⟨hidle, rfl, rfl, ⟨_, _, rfl, rfl, hlegal.runningCommand_launch⟩, rfl⟩
  | writeBuf _ _ _ => exact absurd rfl hne
  | hardwareReset => exact .inr (.inr (.inr (.inr ⟨rfl, rfl, _, _, rfl, .inl rfl⟩)))
  | @pixel _ v _ hbusy _ _ _ =>
    by_cases hlast : u.idx + 1 = u.snap.n
    · obtain ⟨hst, hdone⟩ := commitPixel_last hlast v
      exact .inr (.inr (.inl ⟨hbusy, hst, rfl, hdone, hlast⟩))
    · exact absurd (commitPixel_not_last hlast v).1.symm hne
  | nmsOob hbusy hl _ => exact .inr (.inr (.inr (.inl ⟨hbusy, rfl, rfl, hl, rfl⟩)))

/-- Settles O26: by the moves. -/
theorem modeTransitions : Obligations.ModeTransitions := by
  intro s t _ hstep hne
  obtain ⟨u, hu, m⟩ := coreMove_of_step hstep
  have k := hu.keepsProgress
  have hmode := mode_of_coreMove m (k.st ▸ hne)
  rwa [k.st, k.snap, latched_congr k.snap] at hmode

end Sys2Proof.Machine

/-! SUPPORT and CERTIFICATES. An engine step reads the snapshot, IDX and BUF and no operand register (R33, R75). -/

namespace Sys2Proof.Machine

section EngineInputs

variable {s t : State} (hsnap : t.snap = s.snap) (hidx : t.idx = s.idx) (hbuf : t.buf = s.buf)
  (hwords : t.bufWords = s.bufWords)

include hbuf hwords in
theorem engineRead_congr (addr : Int) : engineRead t addr = engineRead s addr := by
  rw [engineRead, hbuf, hwords, engineRead]

include hsnap hidx hbuf hwords

theorem pixelWord_congr (k : Src) : pixelWord t k = pixelWord s k := by
  rw [pixelWord, engineRead_congr hbuf hwords, hsnap, hidx, pixelWord]

theorem tapProduct_congr (tap : Nat × Nat) : tapProduct t tap = tapProduct s tap := by
  rw [tapProduct, engineRead_congr hbuf hwords, hsnap, hidx, tapProduct]

theorem tapProducts_congr (l : List (Nat × Nat)) : tapProducts t l = tapProducts s l := by
  induction l with
  | nil => rfl
  | cons tap rest ih =>
    rw [tapProducts, tapProduct_congr hsnap hidx hbuf hwords, ih, tapProducts]

theorem convPixel_congr : convPixel t = convPixel s := by
  have htaps : tapsHere t = tapsHere s := by rw [tapsHere, hsnap, hidx, tapsHere]
  rw [convPixel, htaps, tapProducts_congr hsnap hidx hbuf hwords, convPixel]

theorem renormPixel_congr : renormPixel t = renormPixel s := by
  rw [renormPixel, pixelWord_congr hsnap hidx hbuf hwords, renormPixel]

theorem pairPixel_congr (f : Word → Word → Word) : pairPixel f t = pairPixel f s := by
  rw [pairPixel, pixelWord_congr hsnap hidx hbuf hwords, pixelWord_congr hsnap hidx hbuf hwords, pairPixel]

theorem nmsKeep_congr (ja jb : Int) : nmsKeep t ja jb = nmsKeep s ja jb := by
  rw [nmsKeep, pixelWord_congr hsnap hidx hbuf hwords, hsnap, engineRead_congr hbuf hwords,
    engineRead_congr hbuf hwords, nmsKeep]

theorem nmsCompare_congr (js : Int × Int) : nmsCompare t js = nmsCompare s js := by
  rw [nmsCompare, nmsKeep_congr hsnap hidx hbuf hwords, hsnap, nmsCompare]

theorem nmsPixel_congr : nmsPixel t = nmsPixel s := by
  simp only [nmsPixel, pixelWord_congr hsnap hidx hbuf hwords, nmsCompare_congr hsnap hidx hbuf hwords, hsnap, hidx]

/-- The pixel function of every command reads nothing but the snapshot, IDX and BUF. -/
theorem pixelFn_congr (i : Instr) : pixelFn i t = pixelFn i s := by
  cases i with
  | convMean => exact convPixel_congr hsnap hidx hbuf hwords
  | convSx => exact convPixel_congr hsnap hidx hbuf hwords
  | convSy => exact convPixel_congr hsnap hidx hbuf hwords
  | convUsr => exact convPixel_congr hsnap hidx hbuf hwords
  | renorm => exact renormPixel_congr hsnap hidx hbuf hwords
  | magf => exact pairPixel_congr hsnap hidx hbuf hwords magfWord
  | magx => exact pairPixel_congr hsnap hidx hbuf hwords magxWord
  | nms => exact nmsPixel_congr hsnap hidx hbuf hwords

end EngineInputs

/-- `s` with other values in the operand registers. -/
def withOperands (width height : BitVec 16) (src0 src1 src2 dst : Word) (kreg : Vector Word 9) (s : State) : State :=
  { s with width := width, height := height, src0 := src0, src1 := src1, src2 := src2, dst := dst, kreg := kreg }

section Operands

variable (width height : BitVec 16) (src0 src1 src2 dst : Word) (kreg : Vector Word 9)

theorem latched_withOperands (s : State) :
    latched (withOperands width height src0 src1 src2 dst kreg s) = latched s := rfl

theorem pixelFn_withOperands (i : Instr) (s : State) :
    pixelFn i (withOperands width height src0 src1 src2 dst kreg s) = pixelFn i s :=
  pixelFn_congr (s := s) (t := withOperands width height src0 src1 src2 dst kreg s) rfl rfl rfl rfl i

theorem commitPixel_withOperands (v : Word) (s : State) :
    commitPixel v (withOperands width height src0 src1 src2 dst kreg s) =
      withOperands width height src0 src1 src2 dst kreg (commitPixel v s) := rfl

theorem raise_withOperands (f : CoreFault) (info : Word) (s : State) :
    raise f info (withOperands width height src0 src1 src2 dst kreg s) =
      withOperands width height src0 src1 src2 dst kreg (raise f info s) := rfl

/-- An engine step does the same under any operand registers, and leaves them. -/
theorem engineStep_withOperands {i : Instr} {s t : State} (h : engineStep (pixelFn i) s = .next t) :
    engineStep (pixelFn i) (withOperands width height src0 src1 src2 dst kreg s) =
      .next (withOperands width height src0 src1 src2 dst kreg t) := by
  rcases engineStep_cases (pixelFn i) s with ⟨v, hv, hinside, he⟩ | ⟨hoob, he⟩ | ⟨f, he, _⟩
  · rw [he] at h
    cases h
    rw [engineStep, pixelFn_withOperands, hv, ← commitPixel_withOperands]
    exact if_pos hinside
  · rw [he] at h
    cases h
    rw [engineStep, pixelFn_withOperands, hoob, ← raise_withOperands]
    rfl
  · rw [he] at h
    cases h

end Operands

/-- Settles O19: the pixel function does not see the operand registers, and neither the end of a pixel nor fault entry
touches them. -/
theorem engineStepIgnoresOperandRegisters : Obligations.EngineStepIgnoresOperandRegisters := by
  intro i s width height src0 src1 src2 dst kreg t hrun hexec
  change exec i (withOperands width height src0 src1 src2 dst kreg s) =
    .next (withOperands width height src0 src1 src2 dst kreg t)
  rw [exec_busy hrun.busy hrun.latched_eq] at hexec
  have hbusy : (withOperands width height src0 src1 src2 dst kreg s).st = .busy := hrun.busy
  rw [exec_busy hbusy (by rw [latched_withOperands, hrun.latched_eq])]
  exact engineStep_withOperands width height src0 src1 src2 dst kreg hexec

end Sys2Proof.Machine

/-! SUPPORT and CERTIFICATES. The register block: offsets, the bits of STATUS and CTRL, reserved bits, what a write
changes, the interrupt line. -/

namespace Sys2Proof.Machine

/-! ## Offsets -/

/-- Past FINFO no offset is a register but KREG's (R21). -/
theorem regAt_of_gt {o : Nat} (h : 0x28 < o) : regAt o = kregAt o := by
  unfold regAt
  split
  case h_12 => rfl
  all_goals exact absurd h (by decide)

/-- The reserved offsets (R37). -/
theorem regAt_reserved {o : Nat} (h : (0x2C ≤ o ∧ o ≤ 0x3C) ∨ (0x64 ≤ o ∧ o ≤ 0xFC)) : regAt o = none := by
  rw [regAt_of_gt (by omega)]
  exact dif_neg (by omega)

theorem regAccessOk_of_aligned {o : Nat} (ha : o % 4 = 0) (hlt : o < 256) : regAccessOk 32 o = true := by
  simp [regAccessOk, ha, hlt]

theorem hostReadReg_reserved {o : Nat} (s : State) (ha : o % 4 = 0)
    (h : (0x2C ≤ o ∧ o ≤ 0x3C) ∨ (0x64 ≤ o ∧ o ≤ 0xFC)) : hostReadReg 32 o s = note (.value 0) s := by
  rw [hostReadReg, if_pos (regAccessOk_of_aligned ha (by omega)), offsetRead, regAt_reserved h]

theorem hostWriteReg_reserved {o : Nat} (v : Word) (s : State) (ha : o % 4 = 0)
    (h : (0x2C ≤ o ∧ o ≤ 0x3C) ∨ (0x64 ≤ o ∧ o ≤ 0xFC)) : hostWriteReg 32 o v s = .next s := by
  rw [hostWriteReg, if_pos (regAccessOk_of_aligned ha (by omega)), offsetWrite, regAt_reserved h]

/-- A host read at a register's offset notes its word (R274). -/
theorem hostReadReg_regOffset (r : Reg) (s : State) :
    hostReadReg 32 (regOffset r) s = note (.value (regRead r s)) s := by
  rw [hostReadReg, if_pos (regAccessOk_regOffset r), offsetRead_regOffset]

/-- A host write at the offset of a register other than CMD writes it (R275). -/
theorem hostWriteReg_regOffset {r : Reg} (hr : r ≠ .cmd) (v : Word) (s : State) :
    hostWriteReg 32 (regOffset r) v s = .next (regWrite r v s) := by
  rw [hostWriteReg, if_pos (regAccessOk_regOffset r), offsetWrite, regAt_regOffset]
  cases r with
  | cmd => exact absurd rfl hr
  | _ => rfl

/-- A host write of CMD. -/
theorem hostWriteReg_cmd (w : Word) (s : State) : hostWriteReg 32 0x0C w s = writeCmd w s := rfl

/-! ## The write of CMD -/

/-- An accepted write of CMD leaves the word there and WERR as it is (R25, R272). -/
theorem writeCmd_accepted {s : State} (w : Word) (h : s.st = .idle) :
    ∃ t, writeCmd w s = .next t ∧ t.cmd = w ∧ t.werr = s.werr := by
  cases hd : decode w with
  | illegal why => exact ⟨_, writeCmd_illegal h hd, rfl, rfl⟩
  | command i =>
    refine ⟨issue i s, by rw [writeCmd_idle h hd, exec_idle h], ?_⟩
    rw [eq_encode_of_decode hd]
    rcases issue_cases i s with ⟨f, info, _, he⟩ | ⟨_, he⟩
    · rw [he]
      exact ⟨rfl, rfl⟩
    · rw [he]
      exact ⟨rfl, rfl⟩

/-- A write of a register but CMD and CTRL neither sees nor sets the mode. -/
theorem regWrite_with_st {r : Reg} (hr : r ≠ .ctrl) (v : Word) (s : State) (m : Mode) :
    regWrite r v { s with st := m } = { regWrite r v s with st := m } := by
  cases r with
  | ctrl => exact absurd rfl hr
  | _ => rfl

/-- Settles O29: R38's four clauses, the first by the accepted write, the second by the refused one. -/
theorem commandWriteRefusedUnlessIdle : Obligations.CommandWriteRefusedUnlessIdle := by
  refine ⟨?_, ?_, ?_, ?_⟩
  · intro s w h
    rw [hostWriteReg_cmd]
    exact writeCmd_accepted w h
  · intro s w h
    rw [hostWriteReg_cmd]
    exact writeCmd_refused h
  · intro s r v hr
    exact hostWriteReg_regOffset hr v s
  · intro s r v m _ hctrl
    exact regWrite_with_st hctrl v s m

/-! ## The bits of STATUS and CTRL -/

theorem busyFlag_eq_decide (s : State) : busyFlag s = decide (s.st = .busy) := rfl

theorem faultFlag_eq_decide (s : State) : faultFlag s = decide (s.st = .faulted) := rfl

theorem statusWord_bit_busy (s : State) : (statusWord s).getLsbD 0 = busyFlag s := by
  simp only [statusWord, BitVec.getLsbD_append]
  simp

theorem statusWord_bit_done (s : State) : (statusWord s).getLsbD 1 = s.done := by
  simp only [statusWord, BitVec.getLsbD_append]
  simp

theorem statusWord_bit_fault (s : State) : (statusWord s).getLsbD 2 = faultFlag s := by
  simp only [statusWord, BitVec.getLsbD_append]
  simp

theorem statusWord_bit_werr (s : State) : (statusWord s).getLsbD 3 = s.werr := by
  simp only [statusWord, BitVec.getLsbD_append]
  simp

/-- Bits 2:0 of STATUS: FAULT, DONE, BUSY. -/
theorem statusWord_flags (s : State) : (statusWord s).extractLsb 2 0 =
    BitVec.ofBool (faultFlag s) ++ BitVec.ofBool s.done ++ BitVec.ofBool (busyFlag s) := by
  simp only [statusWord, BitVec.extractLsb, BitVec.extractLsb'_append_eq_ite]
  simp

theorem statusWord_fcode (s : State) : (statusWord s).extractLsb 15 8 = s.fcode := by
  simp (disch := decide) only [statusWord, BitVec.extractLsb, BitVec.extractLsb'_append_eq_of_le,
    BitVec.extractLsb'_append_eq_of_add_le]
  exact BitVec.extractLsb'_eq_self

theorem statusWord_reserved_low (s : State) : (statusWord s).extractLsb 7 4 = 0 := by
  simp (disch := decide) only [statusWord, BitVec.extractLsb, BitVec.extractLsb'_append_eq_of_le,
    BitVec.extractLsb'_append_eq_of_add_le]
  exact BitVec.extractLsb'_eq_self

theorem statusWord_reserved_high (s : State) : (statusWord s).extractLsb 31 16 = 0 := by
  simp (disch := decide) only [statusWord, BitVec.extractLsb, BitVec.extractLsb'_append_eq_of_le]
  exact BitVec.extractLsb'_eq_self

theorem ctrlWord_bit_ieDone (s : State) : (ctrlWord s).getLsbD 1 = s.ieDone := by
  simp only [ctrlWord, BitVec.getLsbD_append]
  simp

theorem ctrlWord_bit_ieFault (s : State) : (ctrlWord s).getLsbD 2 = s.ieFault := by
  simp only [ctrlWord, BitVec.getLsbD_append]
  simp

/-- At most one of BUSY, DONE and FAULT is 1: the mode is one, and DONE needs IDLE (R24). -/
theorem CoreInv.statusWord_flags_mem {s : State} (h : CoreInv s) :
    ((statusWord s).extractLsb 2 0 : BitVec 3) ∈ [0b000, 0b001, 0b010, 0b100] := by
  rw [statusWord_flags, faultFlag_eq_decide, busyFlag_eq_decide]
  cases hd : s.done with
  | true =>
    rw [h.done_idle hd]
    decide
  | false => cases s.st <;> decide

/-- Settles O34: bit by bit, and the combinations under the invariant. -/
theorem statusWordLayout : Obligations.StatusWordLayout :=
  ⟨fun s => ⟨statusWord_bit_busy s, statusWord_bit_done s, statusWord_bit_fault s, statusWord_bit_werr s,
    statusWord_reserved_low s, statusWord_fcode s, statusWord_reserved_high s⟩, fun _ h => h.statusWord_flags_mem⟩

/-! ## Reserved bits -/

theorem statusWord_and_reserved (s : State) : statusWord s &&& 0xFFFF00F0 = 0 := by
  have hmask : (0xFFFF00F0 : Word) = BitVec.allOnes 16 ++ (0 : BitVec 8) ++ BitVec.allOnes 4 ++ (0 : BitVec 1) ++
    (0 : BitVec 1) ++ (0 : BitVec 1) ++ (0 : BitVec 1) := by decide
  rw [hmask, statusWord]
  iterate 6 rw [BitVec.and_append]
  simp only [BitVec.ofNat_eq_ofNat, BitVec.zero_and, BitVec.and_zero]
  rfl

theorem ctrlWord_and_reserved (s : State) : ctrlWord s &&& 0xFFFFFFF9 = 0 := by
  have hmask : (0xFFFFFFF9 : Word) = BitVec.allOnes 29 ++ (0 : BitVec 1) ++ (0 : BitVec 1) ++ (1 : BitVec 1) := by
    decide
  rw [hmask, ctrlWord]
  iterate 3 rw [BitVec.and_append]
  simp only [BitVec.ofNat_eq_ofNat, BitVec.zero_and, BitVec.and_zero]
  rfl

/-- A 16-bit register has nothing in bits 31:16 (R26, R27). -/
theorem setWidth_and_high (x : BitVec 16) : x.setWidth 32 &&& 0xFFFF0000 = 0 := by
  have hmask : (0xFFFF0000 : Word) = BitVec.allOnes 16 ++ (0 : BitVec 16) := by decide
  have hx : x.setWidth 32 = (0 : BitVec 16) ++ x := BitVec.setWidth_eq_append (by decide)
  rw [hmask, hx, BitVec.and_append]
  simp

/-- Bits 15:0 do not see bits 31:16. -/
theorem extractLsb_and_low (v : Word) : (v &&& 0x0000FFFF).extractLsb 15 0 = v.extractLsb 15 0 := by
  have hmask : BitVec.extractLsb 15 0 (0x0000FFFF : Word) = BitVec.allOnes 16 := by decide
  rw [BitVec.extractLsb_and, hmask]
  exact BitVec.and_allOnes

theorem writeCtrl_and_mask (v : Word) (s : State) : writeCtrl (v &&& 0x00000007) s = writeCtrl v s := by
  simp [writeCtrl]

theorem writeStatus_and_mask (v : Word) (s : State) : writeStatus (v &&& 0x0000000A) s = writeStatus v s := by
  simp [writeStatus]

/-- Settles O37: reserved offsets are no register; reserved bits are 0 in the words read and not seen by the writes. -/
theorem reservedReadsZeroWritesIgnored : Obligations.ReservedReadsZeroWritesIgnored := by
  refine ⟨?_, ?_, ?_⟩
  · intro s v o ha h
    exact ⟨hostReadReg_reserved s ha h, hostWriteReg_reserved v s ha h⟩
  · intro s
    exact ⟨ctrlWord_and_reserved s, statusWord_and_reserved s, setWidth_and_high s.width, setWidth_and_high s.height⟩
  · intro s v
    simp only [regWrite, writeCtrl_and_mask, writeStatus_and_mask, extractLsb_and_low, and_self]

/-! ## What a write changes -/

/-- The low half of a word, as a word. -/
theorem setWidth_extractLsb_low (v : Word) : (v.extractLsb 15 0).setWidth 32 = v &&& 0x0000FFFF := by
  apply BitVec.eq_of_toNat_eq
  rw [BitVec.toNat_and, show (0x0000FFFF : Word).toNat = 2 ^ 16 - 1 from rfl, Nat.and_two_pow_sub_one_eq_mod]
  simp
  omega

/-- An operand register reads back the bits it stores (R26 to R28, R30). -/
theorem regRead_regWrite_self {r : Reg} (hid : r ≠ .id) (hctrl : r ≠ .ctrl) (hstatus : r ≠ .status) (hcmd : r ≠ .cmd)
    (hfinfo : r ≠ .finfo) (v : Word) (s : State) :
    regRead r (regWrite r v s) = if r = .width ∨ r = .height then v &&& 0x0000FFFF else v := by
  cases r with
  | id => exact absurd rfl hid
  | ctrl => exact absurd rfl hctrl
  | status => exact absurd rfl hstatus
  | cmd => exact absurd rfl hcmd
  | finfo => exact absurd rfl hfinfo
  | width => exact (setWidth_extractLsb_low v).trans (if_pos (.inl rfl)).symm
  | height => exact (setWidth_extractLsb_low v).trans (if_pos (.inr rfl)).symm
  | kreg n => simp [regRead, regWrite]
  | _ => rfl

/-- A write of a register but CTRL, whose reset reaches them all, changes what no other register reads as. -/
theorem regRead_regWrite_of_ne {r q : Reg} (hctrl : r ≠ .ctrl) (hne : q ≠ r) (v : Word) (s : State) :
    regRead q (regWrite r v s) = regRead q s := by
  cases r with
  | id => rfl
  | ctrl => exact absurd rfl hctrl
  | status => cases q with | status => exact absurd rfl hne | _ => rfl
  | cmd => rfl
  | width => cases q with | width => exact absurd rfl hne | _ => rfl
  | height => cases q with | height => exact absurd rfl hne | _ => rfl
  | src0 => cases q with | src0 => exact absurd rfl hne | _ => rfl
  | src1 => cases q with | src1 => exact absurd rfl hne | _ => rfl
  | src2 => cases q with | src2 => exact absurd rfl hne | _ => rfl
  | dst => cases q with | dst => exact absurd rfl hne | _ => rfl
  | finfo => rfl
  | kreg n =>
    cases q with
    | kreg m =>
      have hval : n.val ≠ m.val := fun h => hne (congrArg Reg.kreg (Fin.ext h).symm)
      exact Vector.getElem_set_ne n.isLt m.isLt hval
    | _ => rfl

/-- Settles O36: the register written reads back, the others are not touched. -/
theorem operandRegistersReadBack : Obligations.OperandRegistersReadBack :=
  fun s v _ _ hid hctrl hstatus hcmd hfinfo =>
    ⟨regRead_regWrite_self hid hctrl hstatus hcmd hfinfo v s, fun hne => regRead_regWrite_of_ne hctrl hne v s⟩

/-- Settles O33: ID is read at its offset as its constant, and its write does nothing. -/
theorem idIsConstant : Obligations.IdIsConstant :=
  fun s v => ⟨hostReadReg_regOffset .id s, hostWriteReg_regOffset (r := .id) (by decide) v s⟩

/-- Every register but ID reads 0 after reset (R39). -/
theorem regRead_reset {r : Reg} (hid : r ≠ .id) : regRead r State.reset = 0 := by
  cases r with
  | id => exact absurd rfl hid
  | kreg n => simp [regRead, State.reset]
  | _ => rfl

/-- Settles O32: the fields of the reset state. -/
theorem resetValues : Obligations.ResetValues := by
  refine ⟨fun r => regRead_reset, rfl, rfl, rfl, rfl, fun _ => rfl, rfl, rfl, rfl, rfl, rfl, rfl, rfl, rfl, rfl, ?_⟩
  intro j
  simp [State.reset, Snapshot.reset]

/-! ## The interrupt line -/

theorem irq_eq_bits (s : State) : irq s = (((statusWord s).getLsbD 1 && (ctrlWord s).getLsbD 1) ||
    ((statusWord s).getLsbD 2 && (ctrlWord s).getLsbD 2)) := by
  rw [statusWord_bit_done, statusWord_bit_fault, ctrlWord_bit_ieDone, ctrlWord_bit_ieFault, irq]

/-- With both enables clear the line is low. -/
theorem irq_of_disabled {s : State} (hdone : s.ieDone = false) (hfault : s.ieFault = false) : irq s = false := by
  simp [irq, hdone, hfault]

/-- With neither DONE nor FAULT the line is low. -/
theorem irq_of_no_cause {s : State} (hdone : s.done = false) (hst : s.st ≠ .faulted) : irq s = false := by
  simp [irq, faultFlag_eq_decide, hdone, hst]

/-- Settles O39: the line by the bits; each way it falls clears both enables or both causes. -/
theorem interruptLevel : Obligations.InterruptLevel := by
  refine ⟨irq_eq_bits, rfl, ?_, ?_, ?_⟩
  · intro s
    exact ⟨irq_of_disabled rfl rfl, irq_of_disabled rfl rfl⟩
  · intro s v hv hst
    exact irq_of_no_cause (by rw [writeStatus_done, hv, Bool.not_true, Bool.and_false]) hst
  · intro s v hreset hdone hfault
    rw [writeCtrl_of_not_bit0 hreset]
    exact irq_of_disabled hdone hfault

end Sys2Proof.Machine

/-! SUPPORT. The neighbours of a pixel: the class table's taps are those of the general law, and each meets a pixel of
the image (R161 to R163). -/

namespace Sys2Proof.Machine

/-- The steps 0, 1, 2 (a row up, none, a row down; the same for columns) that stay inside an extent (R162). -/
def existingSteps (extent x : Nat) : List Nat :=
  [0, 1, 2].filter fun a => decide (1 ≤ x + a) && decide (x + a ≤ extent)

theorem mem_existingSteps {extent x a : Nat} (h : a ∈ existingSteps extent x) : 1 ≤ x + a ∧ x + a ≤ extent := by
  simpa using (List.mem_filter.mp h).2

theorem existingSteps_first {extent : Nat} (h : 2 ≤ extent) : existingSteps extent 0 = [1, 2] := by
  have h1 : 1 ≤ extent := by omega
  simp [existingSteps, h, h1]

theorem existingSteps_last {x : Nat} (h : 1 ≤ x) : existingSteps (x + 1) x = [0, 1] := by
  simp [existingSteps, List.filter, h]

theorem existingSteps_middle {extent x : Nat} (hlo : 1 ≤ x) (hhi : x + 2 ≤ extent) :
    existingSteps extent x = [0, 1, 2] := by
  have h0 : x ≤ extent := by omega
  have h1 : x + 1 ≤ extent := by omega
  simp [existingSteps, hlo, hhi, h0, h1]

theorem rowsKept_classOf {h r : Nat} (w c : Nat) (hh : 2 ≤ h) (hr : r < h) :
    rowsKept (classOf w h r c) = existingSteps h r := by
  unfold classOf
  by_cases hfirst : r = 0
  · rw [if_pos hfirst, hfirst, existingSteps_first hh]
    split_ifs <;> rfl
  · rw [if_neg hfirst]
    by_cases hlast : r + 1 = h
    · rw [if_pos hlast, ← hlast, existingSteps_last (by omega)]
      split_ifs <;> rfl
    · rw [if_neg hlast, existingSteps_middle (by omega) (by omega)]
      split_ifs <;> rfl

theorem colsKept_classOf {w c : Nat} (h r : Nat) (hw : 2 ≤ w) (hc : c < w) :
    colsKept (classOf w h r c) = existingSteps w c := by
  unfold classOf
  by_cases hfirst : c = 0
  · simp only [if_pos hfirst]
    rw [hfirst, existingSteps_first hw]
    split_ifs <;> rfl
  · simp only [if_neg hfirst]
    by_cases hlast : c + 1 = w
    · simp only [if_pos hlast]
      rw [← hlast, existingSteps_last (by omega)]
      split_ifs <;> rfl
    · simp only [if_neg hlast]
      rw [existingSteps_middle (by omega) (by omega)]
      split_ifs <;> rfl

/-- Filtering all pairs by a test of each part is pairing the filtered lists. -/
theorem filter_pairs {α β : Type} (p : α → Bool) (q : β → Bool) (l : List α) (m : List β) :
    (l.flatMap fun a => m.map fun b => (a, b)).filter (fun t => p t.1 && q t.2) =
      (l.filter p).flatMap fun a => (m.filter q).map fun b => (a, b) := by
  induction l with
  | nil => rfl
  | cons a l ih =>
    rw [List.flatMap_cons, List.filter_append, ih, List.filter_map]
    cases hp : p a <;> simp [hp, Function.comp_def]

/-- The general law of R162, rows and columns apart. -/
theorem existingTaps_eq_pairs (w h r c : Nat) :
    existingTaps w h r c = (existingSteps h r).flatMap fun a => (existingSteps w c).map fun b => (a, b) := by
  unfold existingSteps
  rw [← filter_pairs]
  unfold existingTaps
  simp only [Bool.and_assoc]
  rfl

/-- The class table keeps exactly the taps whose neighbour exists (R162). -/
theorem taps_classOf {w h r c : Nat} (hw : 2 ≤ w) (hh : 2 ≤ h) (hr : r < h) (hc : c < w) :
    taps (classOf w h r c) = existingTaps w h r c := by
  rw [taps, rowsKept_classOf w c hh hr, colsKept_classOf h r hw hc, existingTaps_eq_pairs]

/-- What it is for a tap to exist: its row and its column are in the image. -/
theorem bounds_of_mem_existingTaps {w h r c : Nat} {t : Nat × Nat} (ht : t ∈ existingTaps w h r c) :
    (1 ≤ r + t.1 ∧ r + t.1 ≤ h) ∧ 1 ≤ c + t.2 ∧ c + t.2 ≤ w := by
  rw [existingTaps_eq_pairs] at ht
  obtain ⟨a, ha, hpair⟩ := List.mem_flatMap.mp ht
  obtain ⟨b, hb, rfl⟩ := List.mem_map.mp hpair
  exact ⟨mem_existingSteps ha, mem_existingSteps hb⟩

/-- An existing tap meets the pixel at its true row and column (R163). -/
theorem neighbour_of_mem_existingTaps {w h r c : Nat} {t : Nat × Nat} (ht : t ∈ existingTaps w h r c) :
    neighbour w (r * w + c) t = (((r + t.1 - 1) * w + (c + t.2 - 1) : Nat) : Int) := by
  obtain ⟨⟨hr, _⟩, hc, _⟩ := bounds_of_mem_existingTaps ht
  unfold neighbour
  push_cast [Nat.cast_sub hr, Nat.cast_sub hc]
  ring

/-- The pixel an existing tap meets is one of the image's w * h. -/
theorem tapIndex_lt {w h r c : Nat} {t : Nat × Nat} (ht : t ∈ existingTaps w h r c) :
    (r + t.1 - 1) * w + (c + t.2 - 1) < w * h := by
  obtain ⟨⟨_, hr⟩, _, hc⟩ := bounds_of_mem_existingTaps ht
  have hrow : (r + t.1 - 1 + 1) * w ≤ h * w := Nat.mul_le_mul_right w (by omega)
  rw [Nat.add_mul, Nat.one_mul, Nat.mul_comm h w] at hrow
  omega

end Sys2Proof.Machine

/-! SUPPORT and CERTIFICATES. What an engine step reads (R69): the pixel function of each command, by whether the words
it reads have values; no read leaves the used source ranges (R61). -/

namespace Sys2Proof.Machine

/-! ## One word -/

/-- The pixel stops the model at one of `addrs`, a word that nothing has written (R74). -/
def StopsAt (s : State) (addrs : List Nat) (p : Pixel) : Prop :=
  ∃ a ∈ addrs, readWord s.buf a = none ∧ p = .stop (.undefinedWord a)

/-- The words of a used source range are inside BUF (R61, R263). -/
theorem RunningCommand.source_inside {i : Instr} {s : State} {k : Src} {j : Nat} (h : RunningCommand i s)
    (hk : k ∈ usedSources i) (hj : j < s.snap.n.toNat) : (latchedSrc s.snap k).toNat + j < s.bufWords := by
  have := h.sources_inside k hk
  omega

/-- Everything a read of pixel IDX of a used source can do. -/
theorem RunningCommand.pixelWord_cases {i : Instr} {s : State} {k : Src} (h : RunningCommand i s)
    (hk : k ∈ usedSources i) :
    (∃ v, readWord s.buf ((latchedSrc s.snap k).toNat + s.idx.toNat) = some v ∧ pixelWord s k = .ok v) ∨
    (readWord s.buf ((latchedSrc s.snap k).toNat + s.idx.toNat) = none ∧
      pixelWord s k = .error (.undefinedWord ((latchedSrc s.snap k).toNat + s.idx.toNat))) :=
  h.engineRead_source_cases hk h.index_below

/-- Everything RENORM's pixel can do (R191). -/
theorem RunningCommand.renormPixel_cases {s : State} (h : RunningCommand .renorm s) :
    StopsAt s [s.snap.src0.toNat + s.idx.toNat] (renormPixel s) ∨
    ∃ v, readWord s.buf (s.snap.src0.toNat + s.idx.toNat) = some v ∧ renormPixel s = .word (renormWord v) := by
  unfold renormPixel
  rcases h.pixelWord_cases (k := .src0) (by decide) with ⟨v, hr, he⟩ | ⟨hr, he⟩
  · rw [he]
    exact .inr ⟨v, hr, rfl⟩
  · rw [he]
    exact .inl ⟨_, List.mem_singleton_self _, hr, rfl⟩

/-! ## Two words -/

/-- Everything the reads of the gradients of pixel IDX can do, whatever `f` makes of them. -/
theorem RunningCommand.gradients_cases {i : Instr} {s : State} (h : RunningCommand i s) (h0 : .src0 ∈ usedSources i)
    (h1 : .src1 ∈ usedSources i) :
    (∃ sx sy, readWord s.buf (s.snap.src0.toNat + s.idx.toNat) = some sx ∧
      readWord s.buf (s.snap.src1.toNat + s.idx.toNat) = some sy ∧
      pixelWord s .src0 = .ok sx ∧ pixelWord s .src1 = .ok sy) ∨
    (readWord s.buf (s.snap.src0.toNat + s.idx.toNat) = none ∧
      pixelWord s .src0 = .error (.undefinedWord (s.snap.src0.toNat + s.idx.toNat))) ∨
    (readWord s.buf (s.snap.src1.toNat + s.idx.toNat) = none ∧ ∃ sx, pixelWord s .src0 = .ok sx ∧
      pixelWord s .src1 = .error (.undefinedWord (s.snap.src1.toNat + s.idx.toNat))) := by
  rcases h.pixelWord_cases h0 with ⟨sx, hr0, he0⟩ | hundef
  · rcases h.pixelWord_cases h1 with ⟨sy, hr1, he1⟩ | ⟨hr1, he1⟩
    · exact .inl ⟨sx, sy, hr0, hr1, he0, he1⟩
    · exact .inr (.inr ⟨hr1, sx, he0, he1⟩)
  · exact .inr (.inl hundef)

/-- Everything a pixel of MAGF or MAGX can do (R192, R193). -/
theorem RunningCommand.pairPixel_cases {i : Instr} {s : State} (h : RunningCommand i s) (h0 : .src0 ∈ usedSources i)
    (h1 : .src1 ∈ usedSources i) (f : Word → Word → Word) :
    StopsAt s [s.snap.src0.toNat + s.idx.toNat, s.snap.src1.toNat + s.idx.toNat] (pairPixel f s) ∨
    ∃ sx sy, readWord s.buf (s.snap.src0.toNat + s.idx.toNat) = some sx ∧
      readWord s.buf (s.snap.src1.toNat + s.idx.toNat) = some sy ∧ pairPixel f s = .word (f sx sy) := by
  unfold pairPixel
  rcases h.gradients_cases h0 h1 with ⟨sx, sy, hr0, hr1, he0, he1⟩ | ⟨hr, he⟩ | ⟨hr, sx, he0, he1⟩
  · rw [he0, he1]
    exact .inr ⟨sx, sy, hr0, hr1, rfl⟩
  · rw [he]
    exact .inl ⟨_, by simp, hr, rfl⟩
  · rw [he0, he1]
    exact .inl ⟨_, by simp, hr, rfl⟩

/-! ## A convolution's words -/

/-- The image index of the neighbour that tap `t` of pixel IDX meets (R163). -/
def tapIndex (s : State) (t : Nat × Nat) : Nat :=
  (s.idx.toNat / s.snap.w.toNat + t.1 - 1) * s.snap.w.toNat + (s.idx.toNat % s.snap.w.toNat + t.2 - 1)

/-- The taps of pixel IDX by the general law (R162). -/
def existingTapsHere (s : State) : List (Nat × Nat) :=
  existingTaps s.snap.w.toNat s.snap.h.toNat (s.idx.toNat / s.snap.w.toNat) (s.idx.toNat % s.snap.w.toNat)

theorem RunningCommand.tapsHere_eq {i : Instr} {s : State} (h : RunningCommand i s) :
    tapsHere s = existingTapsHere s :=
  taps_classOf h.width_two h.height_two h.row_col.1 h.row_col.2

theorem neighbour_of_mem_existingTapsHere {s : State} {t : Nat × Nat} (ht : t ∈ existingTapsHere s) :
    neighbour s.snap.w.toNat s.idx.toNat t = (tapIndex s t : Int) := by
  have hn := neighbour_of_mem_existingTaps ht
  rwa [Nat.div_add_mod'] at hn

theorem RunningCommand.tapIndex_below {i : Instr} {s : State} {t : Nat × Nat} (h : RunningCommand i s)
    (ht : t ∈ existingTapsHere s) : tapIndex s t < s.snap.n.toNat := by
  rw [h.count]
  exact tapIndex_lt ht

/-- Everything one tap's read can do (R164). -/
theorem RunningCommand.tapProduct_cases {i : Instr} {s : State} {t : Nat × Nat} (h : RunningCommand i s)
    (h0 : .src0 ∈ usedSources i) (ht : t ∈ existingTapsHere s) :
    (∃ v, readWord s.buf (s.snap.src0.toNat + tapIndex s t) = some v ∧
      tapProduct s t = .ok (fmul (kernelAt s.snap.k t.1 t.2) v)) ∨
    (readWord s.buf (s.snap.src0.toNat + tapIndex s t) = none ∧
      tapProduct s t = .error (.undefinedWord (s.snap.src0.toNat + tapIndex s t))) := by
  unfold tapProduct
  rw [neighbour_of_mem_existingTapsHere ht]
  have hread := h.engineRead_source_cases h0 (h.tapIndex_below ht)
  simp only [latchedSrc] at hread
  rcases hread with ⟨v, hr, he⟩ | ⟨hr, he⟩
  · exact .inl ⟨v, hr, by rw [he]⟩
  · exact .inr ⟨hr, by rw [he]⟩

/-- Everything the reads of a list of taps can do: each gives a product, or the first without a value stops them. -/
theorem RunningCommand.tapProducts_cases {i : Instr} {s : State} (h : RunningCommand i s)
    (h0 : .src0 ∈ usedSources i) {l : List (Nat × Nat)} (hl : ∀ t ∈ l, t ∈ existingTapsHere s) :
    (∃ t ∈ l, readWord s.buf (s.snap.src0.toNat + tapIndex s t) = none ∧
      tapProducts s l = .error (.undefinedWord (s.snap.src0.toNat + tapIndex s t))) ∨
    ((∀ t ∈ l, readWord s.buf (s.snap.src0.toNat + tapIndex s t) ≠ none) ∧ ∃ ps, tapProducts s l = .ok ps) := by
  induction l with
  | nil => exact .inr ⟨by simp, [], rfl⟩
  | cons t l ih =>
    rw [tapProducts]
    rcases h.tapProduct_cases h0 (hl t List.mem_cons_self) with ⟨v, hr, he⟩ | ⟨hr, he⟩
    · rw [he]
      rcases ih fun u hu => hl u (List.mem_cons_of_mem t hu) with ⟨u, hu, hru, heu⟩ | ⟨hdef, ps, hps⟩
      · exact .inl ⟨u, List.mem_cons_of_mem t hu, hru, by rw [heu]⟩
      · refine .inr ⟨?_, _, by rw [hps]⟩
        exact List.forall_mem_cons.mpr ⟨by simp [hr], hdef⟩
    · exact .inl ⟨t, List.mem_cons_self, hr, by rw [he]⟩

/-- The BUF words a convolution reads for pixel IDX. -/
def convAddrs (s : State) : List Nat := (existingTapsHere s).map fun t => s.snap.src0.toNat + tapIndex s t

/-- Everything a convolution's pixel can do (R160, R164). -/
theorem RunningCommand.convPixel_cases {i : Instr} {s : State} (h : RunningCommand i s) (h0 : .src0 ∈ usedSources i) :
    StopsAt s (convAddrs s) (convPixel s) ∨
    ((∀ a ∈ convAddrs s, readWord s.buf a ≠ none) ∧ ∃ v, convPixel s = .word v) := by
  unfold convPixel
  rw [h.tapsHere_eq]
  rcases h.tapProducts_cases h0 (fun _ ht => ht) with ⟨t, ht, hr, he⟩ | ⟨hdef, ps, he⟩
  · rw [he]
    exact .inl ⟨_, List.mem_map_of_mem ht, hr, rfl⟩
  · rw [he]
    exact .inr ⟨List.forall_mem_map.mpr hdef, _, rfl⟩

/-! ## NMS -/

/-- The border rows of R211 are the first and the last. -/
theorem RunningCommand.isBorderRow_iff_row {i : Instr} {s : State} (h : RunningCommand i s) :
    isBorderRow s.snap.w.toNat s.snap.n.toNat s.idx.toNat = true ↔
      s.idx.toNat / s.snap.w.toNat = 0 ∨ s.idx.toNat / s.snap.w.toNat = s.snap.h.toNat - 1 := by
  have hw := h.width_two
  have hh := h.height_two
  have hn : s.snap.n.toNat = (s.snap.h.toNat - 1) * s.snap.w.toNat + s.snap.w.toNat := by
    rw [h.count, Nat.mul_comm, ← Nat.succ_mul]
    congr 1
    omega
  have hrow : s.idx.toNat / s.snap.w.toNat < s.snap.h.toNat := h.row_col.1
  have hlast := Nat.le_div_iff_mul_le (x := s.snap.h.toNat - 1) (y := s.idx.toNat) (k := s.snap.w.toNat) (by omega)
  rw [isBorderRow_iff, Nat.div_eq_zero_iff]
  omega

/-- The bucket's offsets by R213's chain (R214). -/
theorem nmsOffsets_bucketOf (w : Nat) (ang : Word) : nmsOffsets w (bucketOf ang) = nmsOffsetsOfRatio w ang := by
  simp only [bucketOf, apply_ite (nmsOffsets w)]
  rfl

/-- A border-row pixel of NMS copies its magnitude word (R211). -/
theorem RunningCommand.nmsPixel_border_cases {s : State} (h : RunningCommand .nms s)
    (hb : isBorderRow s.snap.w.toNat s.snap.n.toNat s.idx.toNat = true) :
    StopsAt s [s.snap.src2.toNat + s.idx.toNat] (nmsPixel s) ∨
    ∃ m, readWord s.buf (s.snap.src2.toNat + s.idx.toNat) = some m ∧ nmsPixel s = .word m := by
  rw [nmsPixel, if_pos hb]
  rcases h.pixelWord_cases (k := .src2) (by decide) with ⟨m, hr, he⟩ | ⟨hr, he⟩
  · rw [he]
    exact .inr ⟨m, hr, rfl⟩
  · rw [he]
    exact .inl ⟨_, List.mem_singleton_self _, hr, rfl⟩

/-- An inner-row pixel of NMS reads its gradients, and then compares with the neighbours in their direction (R212 to
R216). -/
theorem RunningCommand.nmsPixel_inner_cases {s : State} (h : RunningCommand .nms s)
    (hb : isBorderRow s.snap.w.toNat s.snap.n.toNat s.idx.toNat = false) :
    StopsAt s [s.snap.src0.toNat + s.idx.toNat, s.snap.src1.toNat + s.idx.toNat] (nmsPixel s) ∨
    ∃ sx sy, readWord s.buf (s.snap.src0.toNat + s.idx.toNat) = some sx ∧
      readWord s.buf (s.snap.src1.toNat + s.idx.toNat) = some sy ∧
      nmsPixel s = nmsCompare s (nmsNeighbours s.snap.w.toNat s.idx.toNat (bucketOf (nmsRatio sx sy))) := by
  rw [nmsPixel, if_neg (Bool.eq_false_iff.mp hb)]
  rcases h.gradients_cases (by decide) (by decide) with ⟨sx, sy, hr0, hr1, he0, he1⟩ | ⟨hr, he⟩ | ⟨hr, sx, he0, he1⟩
  · rw [he0, he1]
    exact .inr ⟨sx, sy, hr0, hr1, rfl⟩
  · rw [he]
    exact .inl ⟨_, by simp, hr, rfl⟩
  · rw [he0, he1]
    exact .inl ⟨_, by simp, hr, rfl⟩

/-- Everything the comparison with two pixels of the image can do (R217). -/
theorem RunningCommand.nmsKeep_cases {s : State} {ja jb : Nat} (h : RunningCommand .nms s) (ha : ja < s.snap.n.toNat)
    (hb : jb < s.snap.n.toNat) :
    StopsAt s [s.snap.src2.toNat + s.idx.toNat, s.snap.src2.toNat + ja, s.snap.src2.toNat + jb]
      (nmsKeep s (ja : Int) (jb : Int)) ∨
    ∃ m ma mb, readWord s.buf (s.snap.src2.toNat + s.idx.toNat) = some m ∧
      readWord s.buf (s.snap.src2.toNat + ja) = some ma ∧ readWord s.buf (s.snap.src2.toNat + jb) = some mb ∧
      nmsKeep s (ja : Int) (jb : Int) = .word (keepWord m ma mb) := by
  have h2 : .src2 ∈ usedSources .nms := by decide
  have hread {j : Nat} (hj : j < s.snap.n.toNat) := h.engineRead_source_cases h2 hj
  simp only [latchedSrc] at hread
  unfold nmsKeep
  rcases h.pixelWord_cases h2 with ⟨m, hr, he⟩ | ⟨hr, he⟩
  · rw [he]
    rcases hread ha with ⟨ma, hra, hea⟩ | ⟨hra, hea⟩
    · rw [hea]
      rcases hread hb with ⟨mb, hrb, heb⟩ | ⟨hrb, heb⟩
      · rw [heb]
        exact .inr ⟨m, ma, mb, hr, hra, hrb, rfl⟩
      · rw [heb]
        exact .inl ⟨_, by simp, hrb, rfl⟩
    · rw [hea]
      exact .inl ⟨_, by simp, hra, rfl⟩
  · rw [he]
    exact .inl ⟨s.snap.src2.toNat + s.idx.toNat, by simp, hr, rfl⟩

/-- With both neighbours in the image there is no F_NMS_OOB (R216). -/
theorem nmsCompare_inside {s : State} {ja jb : Nat} (ha : ja < s.snap.n.toNat) (hb : jb < s.snap.n.toNat) :
    nmsCompare s ((ja : Int), (jb : Int)) = nmsKeep s ja jb := by
  simp [nmsCompare, outside, ha, hb]

/-- A comparison is F_NMS_OOB, or its two neighbours are pixels of the image (R216). -/
theorem nmsCompare_cases (s : State) (js : Int × Int) :
    nmsCompare s js = .nmsOob ∨
    ∃ ja jb : Nat, js = ((ja : Int), (jb : Int)) ∧ ja < s.snap.n.toNat ∧ jb < s.snap.n.toNat := by
  by_cases ho : (outside s.snap.n.toNat js.1 || outside s.snap.n.toNat js.2) = true
  · exact .inl (if_pos ho)
  · obtain ⟨x, y⟩ := js
    simp only [Bool.or_eq_true, outside_iff] at ho
    exact .inr ⟨x.toNat, y.toNat, by rw [Int.toNat_of_nonneg (by omega), Int.toNat_of_nonneg (by omega)], by omega,
      by omega⟩

/-! ## Where a step stops -/

/-- A pixel that stops at one of its words stops the step there (R74). -/
theorem RunningCommand.exec_of_stopsAt {i : Instr} {s : State} {addrs : List Nat} (h : RunningCommand i s)
    (hp : StopsAt s addrs (pixelFn i s)) :
    ∃ a ∈ addrs, readWord s.buf a = none ∧ exec i s = .fault (.undefinedWord a) := by
  obtain ⟨a, ha, hr, hstop⟩ := hp
  exact ⟨a, ha, hr, h.exec_of_stop hstop⟩

/-- A pixel that stops at one of `addrs` unless all have values gives what R74 asks of these words. -/
theorem RunningCommand.stopsAtUndefined_of_cases {i : Instr} {s : State} {addrs : List Nat} (h : RunningCommand i s)
    (hp : StopsAt s addrs (pixelFn i s) ∨ ∀ a ∈ addrs, readWord s.buf a ≠ none) : stopsAtUndefined i s addrs := by
  rintro ⟨a, ha, hr⟩
  rcases hp with hstop | hdef
  · exact h.exec_of_stopsAt hstop
  · exact absurd hr (hdef a ha)

theorem stopsAtUndefined_renorm {s : State} (h : RunningCommand .renorm s) :
    stopsAtUndefined .renorm s [s.snap.src0.toNat + s.idx.toNat] := by
  refine h.stopsAtUndefined_of_cases (h.renormPixel_cases.imp_right ?_)
  rintro ⟨v, hr, _⟩
  simp [hr]

theorem stopsAtUndefined_of_pairPixel {i : Instr} {s : State} {f : Word → Word → Word} (h : RunningCommand i s)
    (hf : pixelFn i s = pairPixel f s) (h0 : .src0 ∈ usedSources i) (h1 : .src1 ∈ usedSources i) :
    stopsAtUndefined i s [s.snap.src0.toNat + s.idx.toNat, s.snap.src1.toNat + s.idx.toNat] := by
  refine h.stopsAtUndefined_of_cases ?_
  rw [hf]
  refine (h.pairPixel_cases h0 h1 f).imp_right ?_
  rintro ⟨sx, sy, hr0, hr1, _⟩
  simp [hr0, hr1]

theorem stopsAtUndefined_pair {i : Instr} {s : State} (hi : i = .magf ∨ i = .magx) (h : RunningCommand i s) :
    stopsAtUndefined i s [s.snap.src0.toNat + s.idx.toNat, s.snap.src1.toNat + s.idx.toNat] := by
  rcases hi with rfl | rfl
  · exact stopsAtUndefined_of_pairPixel (f := magfWord) h rfl (by decide) (by decide)
  · exact stopsAtUndefined_of_pairPixel (f := magxWord) h rfl (by decide) (by decide)

/-- The four convolutions share one pixel function, on SRC0 (R160). -/
theorem pixelFn_conv {i : Instr} (hi : i = .convMean ∨ i = .convSx ∨ i = .convSy ∨ i = .convUsr) :
    pixelFn i = convPixel ∧ .src0 ∈ usedSources i := by
  rcases hi with rfl | rfl | rfl | rfl <;> exact ⟨rfl, by decide⟩

theorem stopsAtUndefined_conv {i : Instr} {s : State}
    (hi : i = .convMean ∨ i = .convSx ∨ i = .convSy ∨ i = .convUsr) (h : RunningCommand i s) :
    stopsAtUndefined i s (convAddrs s) := by
  obtain ⟨hfn, h0⟩ := pixelFn_conv hi
  refine h.stopsAtUndefined_of_cases ?_
  rw [hfn]
  exact (h.convPixel_cases h0).imp_right And.left

theorem stopsAtUndefined_nms_border {s : State} (h : RunningCommand .nms s)
    (hrow : s.idx.toNat / s.snap.w.toNat = 0 ∨ s.idx.toNat / s.snap.w.toNat = s.snap.h.toNat - 1) :
    stopsAtUndefined .nms s [s.snap.src2.toNat + s.idx.toNat] := by
  refine h.stopsAtUndefined_of_cases ((h.nmsPixel_border_cases (h.isBorderRow_iff_row.mpr hrow)).imp_right ?_)
  rintro ⟨m, hr, _⟩
  simp [hr]

/-- A row strictly between the first and the last is no border row (R211). -/
theorem RunningCommand.isBorderRow_of_inner {i : Instr} {s : State} (h : RunningCommand i s)
    (hlo : 0 < s.idx.toNat / s.snap.w.toNat) (hhi : s.idx.toNat / s.snap.w.toNat < s.snap.h.toNat - 1) :
    isBorderRow s.snap.w.toNat s.snap.n.toNat s.idx.toNat = false := by
  rw [Bool.eq_false_iff, ne_eq, h.isBorderRow_iff_row]
  omega

theorem stopsAtUndefined_nms_gradients {s : State} (h : RunningCommand .nms s)
    (hb : isBorderRow s.snap.w.toNat s.snap.n.toNat s.idx.toNat = false) :
    stopsAtUndefined .nms s [s.snap.src0.toNat + s.idx.toNat, s.snap.src1.toNat + s.idx.toNat] := by
  refine h.stopsAtUndefined_of_cases ((h.nmsPixel_inner_cases hb).imp_right ?_)
  rintro ⟨sx, sy, hr0, hr1, _⟩
  simp [hr0, hr1]

/-- With both gradients read and both neighbours in the image, NMS's inner pixel is the comparison (R212 to R217). -/
theorem RunningCommand.nmsPixel_eq_nmsKeep {s : State} {sx sy : Word} {ja jb : Nat} (h : RunningCommand .nms s)
    (hb : isBorderRow s.snap.w.toNat s.snap.n.toNat s.idx.toNat = false)
    (hr0 : readWord s.buf (s.snap.src0.toNat + s.idx.toNat) = some sx)
    (hr1 : readWord s.buf (s.snap.src1.toNat + s.idx.toNat) = some sy)
    (hja : (ja : Int) = s.idx.toNat +
      (nmsOffsetsOfRatio s.snap.w.toNat (fdiv (fsub sx 0x3F000000) (fsub sy 0x3F000000))).1)
    (hjb : (jb : Int) = s.idx.toNat +
      (nmsOffsetsOfRatio s.snap.w.toNat (fdiv (fsub sx 0x3F000000) (fsub sy 0x3F000000))).2)
    (ha : ja < s.snap.n.toNat) (hb' : jb < s.snap.n.toNat) : nmsPixel s = nmsKeep s ja jb := by
  have hnb : nmsNeighbours s.snap.w.toNat s.idx.toNat (bucketOf (nmsRatio sx sy)) = ((ja : Int), (jb : Int)) := by
    rw [hja, hjb, ← nmsOffsets_bucketOf]
    rfl
  have he0 : pixelWord s .src0 = .ok sx := h.pixelWord_ok (by decide) hr0
  have he1 : pixelWord s .src1 = .ok sy := h.pixelWord_ok (by decide) hr1
  rw [nmsPixel, if_neg (Bool.eq_false_iff.mp hb), he0, he1]
  simp only
  rw [hnb, nmsCompare_inside ha hb']

theorem stopsAtUndefined_nms_magnitudes {s : State} {ja jb : Nat} (h : RunningCommand .nms s)
    (hkeep : nmsPixel s = nmsKeep s ja jb) (ha : ja < s.snap.n.toNat) (hb : jb < s.snap.n.toNat) :
    stopsAtUndefined .nms s [s.snap.src2.toNat + s.idx.toNat, s.snap.src2.toNat + ja, s.snap.src2.toNat + jb] := by
  refine h.stopsAtUndefined_of_cases ?_
  rw [show pixelFn .nms s = nmsKeep s ja jb from hkeep]
  refine (h.nmsKeep_cases ha hb).imp_right ?_
  rintro ⟨m, ma, mb, hr, hra, hrb, _⟩
  simp [hr, hra, hrb]

/-- Settles O18: each command by what its pixel function can do. -/
theorem undefinedSourceWordStopsTheModel : Obligations.UndefinedSourceWordStopsTheModel := by
  refine ⟨?_, ?_, ?_, ?_, ?_⟩
  · intro s h
    exact stopsAtUndefined_renorm h
  · intro i s hi h
    exact stopsAtUndefined_pair hi h
  · intro i s hi h
    exact stopsAtUndefined_conv hi h
  · intro s h hrow
    exact stopsAtUndefined_nms_border h hrow
  · intro s h hlo hhi
    have hb := h.isBorderRow_of_inner hlo hhi
    refine ⟨stopsAtUndefined_nms_gradients h hb, ?_⟩
    intro sx sy ja jb hr0 hr1 hja hjb ha hb'
    exact stopsAtUndefined_nms_magnitudes h (h.nmsPixel_eq_nmsKeep hb hr0 hr1 hja hjb ha hb') ha hb'

/-! ## The engine inside BUF -/

/-- What a stop of an engine step is under the invariant: an undefined word inside BUF (R61, R74). -/
def StopsInside (s : State) (f : Fault) : Prop :=
  ∃ a, f = .undefinedWord a ∧ a < s.bufWords ∧ readWord s.buf a = none

/-- A pixel that stops at one of its words, all inside BUF, stops inside BUF. -/
theorem StopsAt.inside {s : State} {addrs : List Nat} {p : Pixel} {f : Fault} (h : StopsAt s addrs p)
    (hin : ∀ a ∈ addrs, a < s.bufWords) (hp : p = .stop f) : StopsInside s f := by
  obtain ⟨a, ha, hr, hstop⟩ := h
  rw [hstop] at hp
  cases hp
  exact ⟨a, rfl, hin a ha, hr⟩

/-- A pixel that gives a word unless it stops at one of its words has no other stop. -/
theorem StopsInside.of_cases {s : State} {addrs : List Nat} {p : Pixel} {f : Fault}
    (hin : ∀ a ∈ addrs, a < s.bufWords) (hp : p = .stop f) (hcases : StopsAt s addrs p ∨ ∃ v, p = .word v) :
    StopsInside s f := by
  rcases hcases with hstop | ⟨v, hv⟩
  · exact hstop.inside hin hp
  · rw [hv] at hp
    cases hp

theorem RunningCommand.convPixel_stop {i : Instr} {s : State} {f : Fault} (h : RunningCommand i s)
    (h0 : .src0 ∈ usedSources i) (hp : convPixel s = .stop f) : StopsInside s f := by
  refine .of_cases (List.forall_mem_map.mpr ?_) hp ((h.convPixel_cases h0).imp_right And.right)
  intro t ht
  exact h.source_inside h0 (h.tapIndex_below ht)

theorem RunningCommand.renormPixel_stop {s : State} {f : Fault} (h : RunningCommand .renorm s)
    (hp : renormPixel s = .stop f) : StopsInside s f := by
  have h0 := h.source_inside (k := .src0) (by decide) h.index_below
  refine .of_cases (by simpa [latchedSrc] using h0) hp (h.renormPixel_cases.imp_right ?_)
  rintro ⟨v, _, hv⟩
  exact ⟨_, hv⟩

/-- The gradient words of pixel IDX are inside BUF. -/
theorem RunningCommand.gradients_inside {i : Instr} {s : State} (h : RunningCommand i s) (h0 : .src0 ∈ usedSources i)
    (h1 : .src1 ∈ usedSources i) :
    ∀ a ∈ [s.snap.src0.toNat + s.idx.toNat, s.snap.src1.toNat + s.idx.toNat], a < s.bufWords := by
  simpa [latchedSrc] using And.intro (h.source_inside h0 h.index_below) (h.source_inside h1 h.index_below)

theorem RunningCommand.pairPixel_stop {i : Instr} {s : State} {f : Fault} {g : Word → Word → Word}
    (h : RunningCommand i s) (h0 : .src0 ∈ usedSources i) (h1 : .src1 ∈ usedSources i)
    (hp : pairPixel g s = .stop f) : StopsInside s f := by
  refine .of_cases (h.gradients_inside h0 h1) hp ((h.pairPixel_cases h0 h1 g).imp_right ?_)
  rintro ⟨sx, sy, _, _, hv⟩
  exact ⟨_, hv⟩

theorem RunningCommand.nmsCompare_stop {s : State} {f : Fault} {js : Int × Int} (h : RunningCommand .nms s)
    (hp : nmsCompare s js = .stop f) : StopsInside s f := by
  rcases nmsCompare_cases s js with hoob | ⟨ja, jb, rfl, ha, hb⟩
  · rw [hoob] at hp
    cases hp
  · rw [nmsCompare_inside ha hb] at hp
    have hin {j : Nat} (hj : j < s.snap.n.toNat) := h.source_inside (k := .src2) (by decide) hj
    refine .of_cases (by simpa using ⟨hin h.index_below, hin ha, hin hb⟩) hp ((h.nmsKeep_cases ha hb).imp_right ?_)
    rintro ⟨m, ma, mb, _, _, _, hv⟩
    exact ⟨_, hv⟩

theorem RunningCommand.nmsPixel_stop {s : State} {f : Fault} (h : RunningCommand .nms s)
    (hp : nmsPixel s = .stop f) : StopsInside s f := by
  cases hb : isBorderRow s.snap.w.toNat s.snap.n.toNat s.idx.toNat with
  | true =>
    have h2 := h.source_inside (k := .src2) (by decide) h.index_below
    refine .of_cases (by simpa [latchedSrc] using h2) hp ((h.nmsPixel_border_cases hb).imp_right ?_)
    rintro ⟨m, _, hv⟩
    exact ⟨_, hv⟩
  | false =>
    rcases h.nmsPixel_inner_cases hb with hstop | ⟨sx, sy, _, _, he⟩
    · exact hstop.inside (h.gradients_inside (by decide) (by decide)) hp
    · exact h.nmsCompare_stop (he ▸ hp)

/-- Every stop of a running command's pixel is an undefined word inside BUF. -/
theorem RunningCommand.pixelFn_stop {i : Instr} {s : State} {f : Fault} (h : RunningCommand i s)
    (hp : pixelFn i s = .stop f) : StopsInside s f := by
  cases i with
  | convMean => exact h.convPixel_stop (by decide) hp
  | convSx => exact h.convPixel_stop (by decide) hp
  | convSy => exact h.convPixel_stop (by decide) hp
  | convUsr => exact h.convPixel_stop (by decide) hp
  | renorm => exact h.renormPixel_stop hp
  | magf => exact h.pairPixel_stop (by decide) (by decide) hp
  | magx => exact h.pairPixel_stop (by decide) (by decide) hp
  | nms => exact h.nmsPixel_stop hp

/-- The engine's turn stops only at an undefined word inside BUF: its store is inside too, and its snapshot names a
command (R61, R74). -/
theorem engineTurn_fault {s : State} {f : Fault} (h : CoreInv s) (he : engineTurn s = .fault f) : StopsInside s f := by
  rcases engineTurn_cases s with ⟨_, heq⟩ | ⟨i, hbusy, hl, heq⟩ | ⟨hbusy, ⟨why, hl⟩, _⟩
  · rw [heq] at he
    cases he
  · obtain ⟨j, hrun⟩ := h.busy_running hbusy
    obtain rfl : j = i := Decoded.command.inj (hrun.latched_eq.symm.trans hl)
    rw [heq, exec_busy hbusy hl] at he
    rcases engineStep_cases (pixelFn j) s with ⟨v, _, _, hs⟩ | ⟨_, hs⟩ | ⟨g, hs, hstop | ⟨hout, _⟩⟩
    · rw [hs] at he
      cases he
    · rw [hs] at he
      cases he
    · rw [hs] at he
      cases he
      exact hrun.pixelFn_stop hstop
    · have := hrun.destination_inside
      have := hrun.index_below
      omega
  · obtain ⟨j, hrun⟩ := h.busy_running hbusy
    rw [hrun.latched_eq] at hl
    cases hl

theorem engineTurn_not_refused (s : State) (r : Refusal) : engineTurn s ≠ .refused r := by
  intro he
  rcases engineTurn_cases s with ⟨_, heq⟩ | ⟨i, _, _, heq⟩ | ⟨_, _, heq⟩
  · rw [heq] at he
    cases he
  · exact exec_not_refused i s r (heq ▸ he)
  · rw [heq] at he
    cases he

/-! ## The host's stops -/

/-- A write of CMD always answers a next state (R272, R38). -/
theorem writeCmd_next (w : Word) (s : State) : ∃ t, writeCmd w s = .next t := by
  by_cases hidle : s.st = .idle
  · obtain ⟨t, ht, _⟩ := writeCmd_accepted w hidle
    exact ⟨t, ht⟩
  · exact ⟨_, writeCmd_refused hidle⟩

/-- A host statement has a move, or it is a write into a live range (R72, R305). -/
theorem runStmt_cases (op : Stmt) (s : State) :
    (∃ t, runStmt op s = .next t) ∨
    ∃ a, (inLiveSource s a = true ∧ runStmt op s = .refused (.hostWritesLiveSource a)) ∨
      (inLiveDestination s a = true ∧ runStmt op s = .refused (.hostWritesLiveDestination a)) := by
  cases op with
  | writeReg bits o v =>
    rcases hostWriteReg_cases bits o v s with ⟨_, he⟩ | ⟨_, _, he⟩ | ⟨_, r, _, _, he⟩ | ⟨_, _, he⟩
    · exact .inl ⟨_, he⟩
    · obtain ⟨t, ht⟩ := writeCmd_next v s
      exact .inl ⟨t, he.trans ht⟩
    · exact .inl ⟨_, he⟩
    · exact .inl ⟨_, he⟩
  | writeBuf bits a v =>
    rcases hostWriteBuf_cases bits a v s with ⟨_, he⟩ | ⟨_, hd, he⟩ | ⟨_, hs, he⟩ | ⟨_, _, _, he⟩
    · exact .inl ⟨_, he⟩
    · exact .inr ⟨a, .inr ⟨hd, he⟩⟩
    · exact .inr ⟨a, .inl ⟨hs, he⟩⟩
    · exact .inl ⟨_, he⟩
  | _ => exact .inl ⟨_, rfl⟩

/-- The host's turn on an empty script does nothing (R312). -/
theorem hostTurn_nil {s : State} (h : s.script = []) : hostTurn s = .next s := by rw [hostTurn, h]

/-- The host's turn takes the statement at the head of its script (R96). -/
theorem hostTurn_cons {s : State} {op : Stmt} {rest : List Stmt} (h : s.script = op :: rest) :
    hostTurn s = runStmt op { s with script := rest } := by rw [hostTurn, h]

/-- A host turn has a move, or it writes into a live range. -/
theorem hostTurn_cases (s : State) :
    (∃ t, hostTurn s = .next t) ∨
    ∃ a, (inLiveSource s a = true ∧ hostTurn s = .refused (.hostWritesLiveSource a)) ∨
      (inLiveDestination s a = true ∧ hostTurn s = .refused (.hostWritesLiveDestination a)) := by
  cases hs : s.script with
  | nil => exact .inl ⟨s, hostTurn_nil hs⟩
  | cons op rest =>
    rw [hostTurn_cons hs]
    exact runStmt_cases op { s with script := rest }

/-- Only a running command has live ranges (R72). -/
theorem busy_of_live {s : State} {a : Nat} (h : inLiveSource s a = true ∨ inLiveDestination s a = true) :
    s.st = .busy := by
  rcases h with h | h
  · exact beq_iff_eq.mp (Bool.and_eq_true_iff.mp h).1
  · exact beq_iff_eq.mp (Bool.and_eq_true_iff.mp h).1

theorem hostTurn_not_fault (s : State) (f : Fault) : hostTurn s ≠ .fault f := by
  intro h
  rcases hostTurn_cases s with ⟨t, he⟩ | ⟨a, ⟨_, he⟩ | ⟨_, he⟩⟩ <;> rw [he] at h <;> cases h

/-- The refusals of the host's turn (R72, R305). -/
theorem hostTurn_refused {s : State} {r : Refusal} (h : hostTurn s = .refused r) :
    s.st = .busy ∧ ∃ a, (r = .hostWritesLiveSource a ∧ inLiveSource s a = true) ∨
      (r = .hostWritesLiveDestination a ∧ inLiveDestination s a = true) := by
  rcases hostTurn_cases s with ⟨t, he⟩ | ⟨a, ⟨hlive, he⟩ | ⟨hlive, he⟩⟩
  · rw [he] at h
    cases h
  · rw [he] at h
    cases h
    exact ⟨busy_of_live (.inl hlive), a, .inl ⟨rfl, hlive⟩⟩
  · rw [he] at h
    cases h
    exact ⟨busy_of_live (.inr hlive), a, .inr ⟨rfl, hlive⟩⟩

/-- Settles O25: the engine's stops are undefined words inside BUF, the host's are its writes into live ranges. -/
theorem engineStaysInsideBuf : Obligations.EngineStaysInsideBuf := by
  intro s h
  constructor
  · intro f hstep
    rcases step_cases s with ⟨_, he⟩ | ⟨_, he⟩
    · exact absurd (he.symm.trans hstep) (hostTurn_not_fault _ f)
    · have hinv : CoreInv (popTurn s) := h.of_keepsProgress ⟨rfl, rfl, rfl, rfl, rfl, rfl, rfl, id⟩
      exact engineTurn_fault (s := popTurn s) hinv (he.symm.trans hstep)
  · intro r hstep
    rcases step_cases s with ⟨_, he⟩ | ⟨_, he⟩
    · exact hostTurn_refused (s := popTurn s) (he.symm.trans hstep)
    · exact absurd (he.symm.trans hstep) (engineTurn_not_refused _ r)

end Sys2Proof.Machine

/-! CERTIFICATES. The host and BUF (R65, R66, R72): refused accesses, a write read back, the live ranges. The frame
of an engine step (R267, R273). -/

namespace Sys2Proof.Machine

/-- A step on the host's turn takes the statement at the head of the script (R71, R96). -/
theorem step_of_hostTurn {s : State} {op : Stmt} {rest : List Stmt} (ha : nextAgent s = .host)
    (hs : s.script = op :: rest) : step s = runStmt op { s with script := rest, sched := s.sched.tail } := by
  rcases step_cases s with ⟨_, he⟩ | ⟨hengine, _⟩
  · rw [he, hostTurn_cons (s := popTurn s) hs]
    rfl
  · rw [ha] at hengine
    cases hengine

/-- An ill-formed access is noted as refused and does nothing else (R65). -/
theorem runStmt_of_not_wf {op : Stmt} {s : State} (h : op.wf s.bufWords = false) :
    runStmt op s = .next (note .refused s) := by
  have hno {b : Bool} (hb : b = false) : ¬b = true := Bool.eq_false_iff.mp hb
  cases op with
  | readReg bits o => exact congrArg Host.Outcome.next (if_neg (hno h))
  | writeReg bits o v => exact if_neg (hno h)
  | readBuf bits a => exact congrArg Host.Outcome.next (if_neg (hno h))
  | writeBuf bits a v => exact if_neg (hno h)
  | wait => cases h
  | waitOrStop rest => cases h
  | hardwareReset => cases h

/-- Settles O40: the step takes the statement, and an ill-formed one is only noted. -/
theorem illFormedAccessIsRefused : Obligations.IllFormedAccessIsRefused := by
  intro s op rest ha hs hwf
  rw [step_of_hostTurn ha hs]
  exact runStmt_of_not_wf hwf

theorem bufAccessOk_word {bufWords a : Nat} (h : a < bufWords) : bufAccessOk bufWords 32 a = true := by
  simp [bufAccessOk, h]

theorem hostReadBuf_of_inside {s : State} {a : Nat} (h : a < s.bufWords) :
    hostReadBuf 32 a s = note (bufReply s a) s :=
  if_pos (bufAccessOk_word h)

/-- Outside the live destination a word with a value is answered with it. -/
theorem bufReply_of_value {s : State} {a : Nat} {v : Word} (hd : inLiveDestination s a = false)
    (hr : readWord s.buf a = some v) : bufReply s a = .value v := by
  simp [bufReply, hd, hr]

/-- In the live destination no value is answered (R72 (c)). -/
theorem bufReply_of_live {s : State} {a : Nat} (hd : inLiveDestination s a = true) : bufReply s a = .unspecified :=
  if_pos hd

/-- An accepted host write of BUF (R65, R72). -/
theorem hostWriteBuf_of_not_live {s : State} {a : Nat} (v : Word) (h : a < s.bufWords)
    (hd : inLiveDestination s a = false) (hs : inLiveSource s a = false) :
    hostWriteBuf 32 a v s = .next { s with buf := writeWord s.buf a v } := by
  simp [hostWriteBuf, bufAccessOk_word h, hd, hs]

/-- Settles O41: the write is accepted, and a read after a write is that of `readWord` after `writeWord`. -/
theorem hostBufWriteReadsBack : Obligations.HostBufWriteReadsBack := by
  intro s a v ha hd hs
  refine ⟨_, hostWriteBuf_of_not_live v ha hd hs, rfl, ?_, ?_, ?_⟩
  · rw [hostReadBuf_of_inside (by exact ha), bufReply_of_value (by exact hd) (readWord_writeWord_self s.buf a v)]
    rfl
  · intro a' hne
    exact readWord_writeWord_of_ne s.buf v hne
  · intro b hb
    refine readByte_writeWord_outside s.buf a b v ?_
    unfold byteOfWord at hb
    omega

/-- Word j of the destination range is live while the command runs. -/
theorem RunningCommand.inLiveDestination {i : Instr} {s : State} {j : Nat} (h : RunningCommand i s)
    (hj : j < s.snap.n.toNat) : inLiveDestination s (s.snap.dst.toNat + j) = true := by
  simp [Machine.inLiveDestination, h.busy, inRange, hj]

/-- Word j of a used source range is live while the command runs. -/
theorem RunningCommand.inLiveSource {i : Instr} {s : State} {k : Src} {j : Nat} (h : RunningCommand i s)
    (hk : k ∈ usedSources i) (hj : j < s.snap.n.toNat) :
    inLiveSource s ((latchedSrc s.snap k).toNat + j) = true := by
  have hrange : inRange (latchedSrc s.snap k).toNat s.snap.n.toNat ((latchedSrc s.snap k).toNat + j) = true := by
    simp [inRange, hj]
  simp only [Machine.inLiveSource, h.busy, h.latched_eq]
  exact List.any_eq_true.mpr ⟨k, hk, hrange⟩

/-- The words of a used source are none of the live destination's (R264). -/
theorem RunningCommand.source_not_inLiveDestination {i : Instr} {s : State} {k : Src} {j : Nat}
    (h : RunningCommand i s) (hk : k ∈ usedSources i) (hj : j < s.snap.n.toNat) :
    Machine.inLiveDestination s ((latchedSrc s.snap k).toNat + j) = false := by
  have hdisjoint := h.no_overlap k hk
  have hrange : inRange s.snap.dst.toNat s.snap.n.toNat ((latchedSrc s.snap k).toNat + j) = false := by
    rw [Bool.eq_false_iff, ne_eq, inRange_iff]
    omega
  rw [Machine.inLiveDestination, hrange, Bool.and_false]

/-- A host write into the live destination has no move (HP2). -/
theorem hostWriteBuf_of_inLiveDestination {s : State} {a : Nat} (v : Word) (h : a < s.bufWords)
    (hd : inLiveDestination s a = true) : hostWriteBuf 32 a v s = .refused (.hostWritesLiveDestination a) := by
  simp [hostWriteBuf, bufAccessOk_word h, hd]

/-- A host write into a live source has no move (HP1). -/
theorem hostWriteBuf_of_inLiveSource {s : State} {a : Nat} (v : Word) (h : a < s.bufWords)
    (hd : inLiveDestination s a = false) (hs : inLiveSource s a = true) :
    hostWriteBuf 32 a v s = .refused (.hostWritesLiveSource a) := by
  simp [hostWriteBuf, bufAccessOk_word h, hd, hs]

/-- Settles O42: the destination's words are live, and so are the sources', which no destination word is. -/
theorem liveRangesAreTheEngines : Obligations.LiveRangesAreTheEngines := by
  intro i s k j v h hj
  have hlive := h.inLiveDestination hj
  have hinside : s.snap.dst.toNat + j < s.bufWords := by
    have := h.destination_inside
    omega
  refine ⟨hostWriteBuf_of_inLiveDestination v hinside hlive, ?_, ?_⟩
  · rw [hostReadBuf_of_inside hinside, bufReply_of_live hlive]
    rfl
  · intro hk
    exact hostWriteBuf_of_inLiveSource v (h.source_inside hk hj) (h.source_not_inLiveDestination hk hj)
      (h.inLiveSource hk hj)

/-! ## What an engine step leaves unchanged -/

/-- Everything an engine step of a running command can do (R216, R273). -/
theorem RunningCommand.exec_next_cases {i : Instr} {s t : State} (h : RunningCommand i s) (he : exec i s = .next t) :
    (∃ v, pixelFn i s = .word v ∧ t = Machine.commitPixel v s) ∨
    (i = .nms ∧ pixelFn i s = .nmsOob ∧ t = Machine.raise .nmsOob s.idx s) := by
  rw [exec_busy h.busy h.latched_eq] at he
  rcases engineStep_cases (pixelFn i) s with ⟨v, hv, _, heq⟩ | ⟨hoob, heq⟩ | ⟨f, heq, _⟩
  · rw [heq] at he
    cases he
    exact .inl ⟨v, hv, rfl⟩
  · rw [heq] at he
    cases he
    exact .inr ⟨pixelFn_nmsOob hoob, hoob, rfl⟩
  · rw [heq] at he
    cases he

/-- After a pixel CORE is idle exactly when IDX has reached L_N, with DONE; else busy, with DONE as before (R273). -/
theorem RunningCommand.commitPixel_mode {i : Instr} {s : State} (h : RunningCommand i s) (v : Word) :
    ((Machine.commitPixel v s).st = .idle ↔ (Machine.commitPixel v s).idx = s.snap.n) ∧
    ((Machine.commitPixel v s).st = .idle → (Machine.commitPixel v s).done = true) ∧
    ((Machine.commitPixel v s).st = .busy → (Machine.commitPixel v s).done = s.done) := by
  rw [commitPixel_idx]
  by_cases hlast : s.idx + 1 = s.snap.n
  · obtain ⟨hst, hdone⟩ := commitPixel_last hlast v
    rw [hst, hdone]
    exact ⟨⟨fun _ => hlast, fun _ => rfl⟩, fun _ => rfl, nofun⟩
  · obtain ⟨hst, hdone⟩ := commitPixel_not_last hlast v
    rw [hst, hdone, h.busy]
    exact ⟨⟨nofun, fun e => absurd e hlast⟩, nofun, fun _ => rfl⟩

theorem readByte_commitPixel_outside {s : State} {b : Nat} (v : Word)
    (hb : ¬byteOfWord (s.snap.dst.toNat + s.idx.toNat) b) :
    readByte (commitPixel v s).buf b = readByte s.buf b := by
  refine readByte_writeWord_outside s.buf _ b v ?_
  unfold byteOfWord at hb
  omega

/-- Settles O17: the step stores one word and advances, or is NMS's fault entry. -/
theorem engineStepFrame : Obligations.EngineStepFrame := by
  intro i s t h he
  rcases h.exec_next_cases he with ⟨v, _, rfl⟩ | ⟨hi, _, rfl⟩
  · refine ⟨rfl, rfl, rfl, rfl, rfl, rfl, rfl, rfl, rfl, rfl, rfl, rfl, rfl, rfl, rfl, rfl, .inr ?_⟩
    obtain ⟨hidle, hdone, hbusy⟩ := h.commitPixel_mode v
    exact ⟨commitPixel_not_faulted h.busy v, rfl, rfl, h.index_succ, hidle, hdone, hbusy,
      fun b hb => readByte_commitPixel_outside v hb⟩
  · refine ⟨rfl, rfl, rfl, rfl, rfl, rfl, rfl, rfl, rfl, rfl, rfl, rfl, rfl, rfl, rfl, rfl, .inl ?_⟩
    exact ⟨rfl, hi, rfl, rfl, rfl, rfl, fun b => rfl⟩

end Sys2Proof.Machine

/-! CERTIFICATES. A whole command (R70, R273, R311): its pixels one after another, each reading the starting BUF
because no source word is a destination word (R264). -/

namespace Sys2Proof.Machine

/-! ## The pixel depends on the source words only -/

/-- `t` shows the running command of `s` the same pixel: snapshot, IDX and every word of the used sources agree. -/
structure SameSources (i : Instr) (s t : State) : Prop where
  snap : t.snap = s.snap
  idx : t.idx = s.idx
  bufWords : t.bufWords = s.bufWords
  source : ∀ k ∈ usedSources i, ∀ j < s.snap.n.toNat,
    readWord t.buf ((latchedSrc s.snap k).toNat + j) = readWord s.buf ((latchedSrc s.snap k).toNat + j)

theorem engineRead_congr_of_word {s t : State} {a : Nat} (hwords : t.bufWords = s.bufWords)
    (hword : readWord t.buf a = readWord s.buf a) : engineRead t (a : Int) = engineRead s (a : Int) := by
  simp only [engineRead, hwords, Int.toNat_natCast, hword]

section SameSources

variable {i : Instr} {s t : State} (same : SameSources i s t)

include same

theorem SameSources.engineRead_eq {k : Src} {j : Nat} (hk : k ∈ usedSources i) (hj : j < s.snap.n.toNat) :
    engineRead t ((latchedSrc s.snap k).toNat + (j : Int)) =
      engineRead s ((latchedSrc s.snap k).toNat + (j : Int)) := by
  rw [← Int.natCast_add]
  exact engineRead_congr_of_word same.bufWords (same.source k hk j hj)

variable (h : RunningCommand i s)

include h

theorem SameSources.pixelWord_eq {k : Src} (hk : k ∈ usedSources i) : pixelWord t k = pixelWord s k := by
  rw [pixelWord, same.snap, same.idx, same.engineRead_eq hk h.index_below, pixelWord]

theorem SameSources.tapProduct_eq (h0 : .src0 ∈ usedSources i) {tap : Nat × Nat} (ht : tap ∈ existingTapsHere s) :
    tapProduct t tap = tapProduct s tap := by
  have hread := same.engineRead_eq h0 (h.tapIndex_below ht)
  simp only [latchedSrc] at hread
  rw [tapProduct, tapProduct, same.snap, same.idx, neighbour_of_mem_existingTapsHere ht, hread]

theorem SameSources.tapProducts_eq (h0 : .src0 ∈ usedSources i) {l : List (Nat × Nat)}
    (hl : ∀ tap ∈ l, tap ∈ existingTapsHere s) : tapProducts t l = tapProducts s l := by
  induction l with
  | nil => rfl
  | cons tap l ih =>
    obtain ⟨htap, hrest⟩ := List.forall_mem_cons.mp hl
    rw [tapProducts, tapProducts, same.tapProduct_eq h h0 htap, ih hrest]

theorem SameSources.convPixel_eq (h0 : .src0 ∈ usedSources i) : convPixel t = convPixel s := by
  have htaps : tapsHere t = tapsHere s := by rw [tapsHere, same.snap, same.idx, tapsHere]
  have hall : ∀ tap ∈ tapsHere s, tap ∈ existingTapsHere s := by simp [h.tapsHere_eq]
  rw [convPixel, convPixel, htaps, same.tapProducts_eq h h0 hall]

theorem SameSources.renormPixel_eq (h0 : .src0 ∈ usedSources i) : renormPixel t = renormPixel s := by
  rw [renormPixel, renormPixel, same.pixelWord_eq h h0]

theorem SameSources.pairPixel_eq (h0 : .src0 ∈ usedSources i) (h1 : .src1 ∈ usedSources i)
    (f : Word → Word → Word) : pairPixel f t = pairPixel f s := by
  rw [pairPixel, pairPixel, same.pixelWord_eq h h0, same.pixelWord_eq h h1]

theorem SameSources.nmsCompare_eq (h2 : .src2 ∈ usedSources i) (js : Int × Int) :
    nmsCompare t js = nmsCompare s js := by
  rw [nmsCompare, nmsCompare, same.snap]
  refine ite_congr rfl (fun _ => rfl) fun hin => ?_
  obtain ⟨x, y⟩ := js
  simp only [Bool.or_eq_true, outside_iff] at hin
  have hread {x : Int} (hx : ¬(x < 0 ∨ (s.snap.n.toNat : Int) ≤ x)) :
      engineRead t (s.snap.src2.toNat + x) = engineRead s (s.snap.src2.toNat + x) := by
    have := same.engineRead_eq h2 (j := x.toNat) (by omega)
    rwa [Int.toNat_of_nonneg (by omega)] at this
  rw [nmsKeep, nmsKeep, same.snap, same.pixelWord_eq h h2, hread (by omega), hread (by omega)]

theorem SameSources.nmsPixel_eq (h0 : .src0 ∈ usedSources i) (h1 : .src1 ∈ usedSources i)
    (h2 : .src2 ∈ usedSources i) : nmsPixel t = nmsPixel s := by
  simp only [nmsPixel, same.snap, same.idx, same.pixelWord_eq h h0, same.pixelWord_eq h h1, same.pixelWord_eq h h2,
    same.nmsCompare_eq h h2]

/-- The pixel of a running command sees nothing of BUF but the used sources (R69). -/
theorem SameSources.pixelFn_eq : pixelFn i t = pixelFn i s := by
  cases i with
  | convMean => exact same.convPixel_eq h (by decide)
  | convSx => exact same.convPixel_eq h (by decide)
  | convSy => exact same.convPixel_eq h (by decide)
  | convUsr => exact same.convPixel_eq h (by decide)
  | renorm => exact same.renormPixel_eq h (by decide)
  | magf => exact same.pairPixel_eq h (by decide) (by decide) magfWord
  | magx => exact same.pairPixel_eq h (by decide) (by decide) magxWord
  | nms => exact same.nmsPixel_eq h (by decide) (by decide) (by decide)

end SameSources

/-! ## BUF after j pixels -/

/-- `m` with the words `out 0`, ..., `out (j - 1)` stored from `base` on. -/
def storeWords (m : Memory) (base : Nat) (out : Nat → Word) : Nat → Memory
  | 0 => m
  | j + 1 => writeWord (storeWords m base out j) (base + j) (out j)

theorem readWord_storeWords_outside (m : Memory) (base : Nat) (out : Nat → Word) {a j : Nat}
    (h : a < base ∨ base + j ≤ a) : readWord (storeWords m base out j) a = readWord m a := by
  induction j with
  | zero => rfl
  | succ j ih => rw [storeWords, readWord_writeWord_of_ne _ _ (by omega), ih (by omega)]

theorem readWord_storeWords (m : Memory) (base : Nat) (out : Nat → Word) {j n : Nat} (h : j < n) :
    readWord (storeWords m base out n) (base + j) = some (out j) := by
  induction n with
  | zero => omega
  | succ n ih =>
    rw [storeWords]
    by_cases e : j = n
    · rw [e, readWord_writeWord_self]
    · rw [readWord_writeWord_of_ne _ _ (by omega), ih (by omega)]

/-! ## The state after j pixels -/

/-- The command of `s` at pixel `j`. -/
def atPixel (s : State) (j : Nat) : State := { s with idx := BitVec.ofNat 32 j }

/-- The command of `s` after `j` pixels that gave the words `out` (R273). -/
def afterPixels (s : State) (out : Nat → Word) (j : Nat) : State :=
  { s with
    buf := storeWords s.buf s.snap.dst.toNat out j
    idx := BitVec.ofNat 32 j
    st := if j = s.snap.n.toNat then .idle else .busy
    done := if j = s.snap.n.toNat then true else s.done }

theorem toNat_ofNat_of_lt {n : Word} {j : Nat} (h : j < n.toNat) : (BitVec.ofNat 32 j).toNat = j := by
  rw [BitVec.toNat_ofNat]
  exact Nat.mod_eq_of_lt (h.trans n.isLt)

/-- Before the last pixel only BUF and IDX have changed. -/
theorem afterPixels_of_lt {s : State} (hbusy : s.st = .busy) (out : Nat → Word) {j : Nat} (hj : j < s.snap.n.toNat) :
    afterPixels s out j = { atPixel s j with buf := storeWords s.buf s.snap.dst.toNat out j } := by
  simp [afterPixels, atPixel, hj.ne, hbusy]

theorem afterPixels_zero {s : State} (hbusy : s.st = .busy) (hidx : s.idx = 0) (hn : 0 < s.snap.n.toNat)
    (out : Nat → Word) : afterPixels s out 0 = s := by
  rw [afterPixels_of_lt hbusy out hn, atPixel, show BitVec.ofNat 32 0 = s.idx from hidx.symm]
  rfl

/-- After the last pixel CORE is idle with DONE. -/
theorem afterPixels_last (s : State) (out : Nat → Word) :
    afterPixels s out s.snap.n.toNat =
      { s with
        buf := storeWords s.buf s.snap.dst.toNat out s.snap.n.toNat
        idx := s.snap.n
        st := .idle
        done := true } := by
  simp [afterPixels]

/-- A running command may stand at any of its pixels. -/
theorem RunningCommand.atPixel {i : Instr} {s : State} (h : RunningCommand i s) {j : Nat} (hj : j < s.snap.n.toNat) :
    RunningCommand i (atPixel s j) :=
  { h with index_below := by rw [Machine.atPixel, toNat_ofNat_of_lt hj]; exact hj }

theorem RunningCommand.afterPixels {i : Instr} {s : State} (h : RunningCommand i s) (out : Nat → Word) {j : Nat}
    (hj : j < s.snap.n.toNat) : RunningCommand i (afterPixels s out j) := by
  rw [afterPixels_of_lt h.busy out hj]
  exact { h.atPixel hj with }

/-- The words stored so far are no source words, so pixel `j` is what it would be in the starting BUF. -/
theorem RunningCommand.sameSources_afterPixels {i : Instr} {s : State} (h : RunningCommand i s) (out : Nat → Word)
    {j : Nat} (hj : j < s.snap.n.toNat) :
    SameSources i (Machine.atPixel s j) (Machine.afterPixels s out j) where
  snap := rfl
  idx := rfl
  bufWords := rfl
  source k hk j' hj' := by
    have hdisjoint := h.no_overlap k hk
    have hlt : j' < s.snap.n.toNat := hj'
    refine readWord_storeWords_outside s.buf s.snap.dst.toNat out (a := (latchedSrc s.snap k).toNat + j') ?_
    omega

/-- With no turn scheduled a running command takes its engine step (R273, R311; log 2). -/
theorem RunningCommand.step_eq_exec {i : Instr} {s : State} (h : RunningCommand i s) (hsched : s.sched = []) :
    step s = exec i s := by
  have hagent : nextAgent s = .engine := by simp [nextAgent, hsched, h.busy]
  have hpop : popTurn s = s := by rw [popTurn, hsched, List.tail_nil, ← hsched]
  rw [step, agentStep, hagent, hpop]
  simp only [engineTurn, h.busy, h.latched_eq]

/-- One step goes from `j` pixels to `j + 1`. -/
theorem RunningCommand.step_afterPixels {i : Instr} {s : State} (h : RunningCommand i s) (hsched : s.sched = [])
    {out : Nat → Word} {j : Nat} (hj : j < s.snap.n.toNat) (hout : pixelFn i (Machine.atPixel s j) = .word (out j)) :
    step (Machine.afterPixels s out j) = .next (Machine.afterPixels s out (j + 1)) := by
  have hrun := h.afterPixels out hj
  have hword : pixelFn i (Machine.afterPixels s out j) = .word (out j) :=
    ((h.sameSources_afterPixels out hj).pixelFn_eq (h.atPixel hj)).trans hout
  have hidx : (Machine.afterPixels s out j).idx.toNat = j := toNat_ofNat_of_lt hj
  rw [hrun.step_eq_exec hsched, hrun.exec_of_word hword, afterPixel, hidx]
  simp [Machine.afterPixels, storeWords, hj.ne]

/-! ## Runs -/

theorem run_succ_of_step {s t : State} (k : Nat) (h : step s = .next t) :
    Host.Core.run core (k + 1) s = Host.Core.run core k t := by
  simp only [Host.Core.run, core, h]

/-- With each pixel one step, `k` more steps finish the `k` pixels left. -/
theorem run_afterPixels {s : State} {out : Nat → Word} {n : Nat}
    (hstep : ∀ j < n, step (afterPixels s out j) = .next (afterPixels s out (j + 1))) {k j : Nat} (hkj : j + k = n) :
    Host.Core.run core k (afterPixels s out j) = .next (afterPixels s out n) := by
  induction k generalizing j with
  | zero => rw [← hkj]; rfl
  | succ k ih => rw [run_succ_of_step k (hstep j (by omega)), ih (by omega)]

/-- A step that answers no fault of CORE has stored a word (R273). -/
theorem RunningCommand.word_of_not_faulted {i : Instr} {s u : State} (h : RunningCommand i s)
    (he : exec i s = .next u) (hst : u.st ≠ .faulted) : ∃ v, pixelFn i s = .word v := by
  rcases h.exec_next_cases he with ⟨v, hv, _⟩ | ⟨_, _, rfl⟩
  · exact ⟨v, hv⟩
  · exact absurd rfl hst

/-- The word that a pixel's step stores. -/
theorem RunningCommand.readWord_of_exec {i : Instr} {s u : State} {v : Word} (h : RunningCommand i s)
    (hv : pixelFn i s = .word v) (he : exec i s = .next u) :
    readWord u.buf (s.snap.dst.toNat + s.idx.toNat) = some v := by
  rw [h.exec_of_word hv] at he
  cases he
  exact readWord_writeWord_self _ _ _

/-- Settles O20: the words the pixels give in the starting BUF are those the run stores, one per step. -/
theorem commandWritesEveryPixel : Obligations.CommandWritesEveryPixel := by
  intro i s h hidx hsched hpixels
  have hword (j : Nat) : ∃ v, j < s.snap.n.toNat → pixelFn i (atPixel s j) = .word v := by
    by_cases hj : j < s.snap.n.toNat
    · obtain ⟨u, hu, hst⟩ := hpixels j hj
      obtain ⟨v, hv⟩ := (h.atPixel hj).word_of_not_faulted hu hst
      exact ⟨v, fun _ => hv⟩
    · exact ⟨0, fun hlt => absurd hlt hj⟩
  choose out hout using hword
  have hn : 0 < s.snap.n.toNat := (Nat.zero_le _).trans_lt h.index_below
  have hrun := run_afterPixels (fun j hj => h.step_afterPixels hsched hj (hout j hj)) (Nat.zero_add s.snap.n.toNat)
  rw [afterPixels_zero h.busy hidx hn, afterPixels_last] at hrun
  refine ⟨_, hrun, rfl, ?_, ?_⟩
  · intro j hj u hu
    have hstored := (h.atPixel hj).readWord_of_exec (hout j hj) hu
    rw [show (atPixel s j).idx.toNat = j from toNat_ofNat_of_lt hj] at hstored
    exact (readWord_storeWords s.buf s.snap.dst.toNat out hj).trans hstored.symm
  · intro a ha
    rw [Bool.eq_false_iff, ne_eq, inRange_iff] at ha
    exact readWord_storeWords_outside s.buf s.snap.dst.toNat out (by omega)

end Sys2Proof.Machine

/-! CERTIFICATES. Command words (R90, R93): decoding inverts encoding, the reasons a word is refused, what the issue of
a refused word does; and the polling of `wait` (R96, R312). -/

namespace Sys2Proof.Machine

/-! ## Words of commands -/

/-- The ZERO field of a command's word is zero (R90). -/
theorem fieldsOf_zero (i : Instr) : (fieldsOf i).zero = 0 := by
  cases i <;> rfl

/-- A command's word decodes to it: the word is the one the latched fields make. -/
theorem decode_encode (i : Instr) : decode (encode i) = .command i := by
  have hfields : fieldsOf i = { zero := 0, ksel := (fieldsOf i).ksel, op := (fieldsOf i).op } := by
    rw [← fieldsOf_zero i]
  rw [encode, hfields]
  exact decode_latched_fields i

/-- Decoding and encoding agree over all words (R93). -/
theorem decode_eq_command_iff (w : Word) (i : Instr) : decode w = .command i ↔ w = encode i where
  mp := eq_encode_of_decode
  mpr h := h ▸ decode_encode i

/-! ## Words that are no command -/

theorem decode_illegal_of_ne_encode {w : Word} (h : ∀ i, w ≠ encode i) : ∃ why, decode w = .illegal why := by
  cases hd : decode w with
  | command i => exact absurd (eq_encode_of_decode hd) (h i)
  | illegal why => exact ⟨why, rfl⟩

/-- The issue of a word that is no command: CMD, DONE, and the fault F_ILLCMD with the word (R261, R272). -/
theorem writeCmd_of_ne_encode {s : State} {w : Word} (hidle : s.st = .idle) (h : ∀ i, w ≠ encode i) :
    writeCmd w s = .next { s with cmd := w, done := false, st := .faulted, fcode := 1, finfo := w } := by
  obtain ⟨why, hd⟩ := decode_illegal_of_ne_encode h
  rw [writeCmd_illegal hidle hd]
  rfl

/-- Settles O1: `decode_encode` one way and `eq_encode_of_decode` the other; the eight words by their fields. -/
theorem legalWordsAreTheEightCommands : Obligations.LegalWordsAreTheEightCommands :=
  ⟨decode_eq_command_iff, rfl, rfl, rfl, rfl, rfl, rfl, rfl, rfl, fun _ _ => writeCmd_of_ne_encode⟩

/-! ## Why a word is refused -/

/-- First reason: a bit of 31:6 is set. -/
theorem decode_of_zero_ne {w : Word} (hz : (formatOf w).zero ≠ 0) : decode w = .illegal .zeroField :=
  if_pos hz

/-- Second reason: OP is 0 or 0x6 to 0xF. -/
theorem decode_of_op_reserved {w : Word} (hz : (formatOf w).zero = 0)
    (ho : (formatOf w).op = 0 ∨ 5 < (formatOf w).op) : decode w = .illegal .reservedOp := by
  have hne (n : BitVec 4) (hn : n ≠ 0 ∧ n ≤ 5) : (formatOf w).op ≠ n := by
    rintro rfl
    exact ho.elim hn.1 (BitVec.not_lt.mpr hn.2)
  simp [decode, hz, hne]

/-- Third reason: KSEL is not 0 although the command is no convolution. -/
theorem decode_of_ksel_ne {w : Word} (hz : (formatOf w).zero = 0) (hk : (formatOf w).ksel ≠ 0)
    (ho : (formatOf w).op ∈ [2, 3, 4, 5]) : decode w = .illegal .kselNotZero := by
  have hplain (i : Instr) : plainCommand (formatOf w).ksel i = .illegal .kselNotZero := if_neg hk
  simp only [List.mem_cons, List.not_mem_nil, or_false] at ho
  rcases ho with ho | ho | ho | ho <;> simp [decode, hz, ho, hplain]

/-- Settles O2: the legal words are `encode` of their commands, and each illegal word meets one of the three reasons. -/
theorem wordsDecodeAsTabled : Obligations.WordsDecodeAsTabled :=
  ⟨decode_encode .convUsr, decode_encode .magf, decode_encode .nms,
    decode_of_ksel_ne (by decide) (by decide) (by decide),
    decode_of_op_reserved (by decide) (by decide),
    decode_of_zero_ne (by decide)⟩

/-! ## Polling -/

theorem poll_of_busy (again : Stmt) (after : State → State) {s : State} (h : s.st = .busy) :
    poll again after s = { note (.value (statusWord s)) s with script := again :: s.script } := by
  rcases poll_cases again after s with ⟨_, he⟩ | ⟨hne, _⟩
  · exact he
  · exact absurd h hne

theorem poll_of_not_busy (again : Stmt) (after : State → State) {s : State} (h : s.st ≠ .busy) :
    poll again after s = after (note (.value (statusWord s)) s) := by
  rcases poll_cases again after s with ⟨hbusy, _⟩ | ⟨_, he⟩
  · exact absurd hbusy h
  · exact he

/-- Settles O43: the host's turn is one poll, which puts the wait back in BUSY only. -/
theorem waitPollsUntilNotBusy : Obligations.WaitPollsUntilNotBusy := by
  intro s rest ha hs
  rw [step_of_hostTurn ha hs, runStmt]
  constructor
  · intro hbusy
    rw [poll_of_busy _ _ (s := { s with script := rest, sched := s.sched.tail }) hbusy, hs]
    rfl
  · intro hne
    rw [poll_of_not_busy _ _ (s := { s with script := rest, sched := s.sched.tail }) hne]
    rfl

end Sys2Proof.Machine

/-! SUPPORT. The value of a word (R120): its fields, the number of units of 2^-149 it stands for, and `unpack` by its
class. -/

namespace Sys2Proof.Machine

/-! ## The fields of a word -/

/-- A word is its sign and its bits 30:0. -/
theorem signed_isNeg_mod (w : Word) : signed (isNeg w) (w.toNat % 2 ^ 31) = w := by
  apply BitVec.eq_of_toNat_eq
  have hw := w.isLt
  rw [signed_toNat _ _ (Nat.mod_lt _ (by decide))]
  simp only [isNeg, decide_eq_true_eq]
  split <;> omega

theorem isNeg_signed (neg : Bool) {bits : Nat} (h : bits < 2 ^ 31) : isNeg (signed neg bits) = neg := by
  rw [isNeg, signed_toNat neg bits h]
  cases neg
  · simpa using h
  · simp

theorem expField_signed (neg : Bool) {bits : Nat} (h : bits < 2 ^ 31) :
    expField (signed neg bits) = bits / 2 ^ 23 := by
  rw [expField, signed_toNat neg bits h]
  split <;> omega

theorem fracField_signed (neg : Bool) {bits : Nat} (h : bits < 2 ^ 31) :
    fracField (signed neg bits) = bits % 2 ^ 23 := by
  rw [fracField, signed_toNat neg bits h]
  split <;> omega

theorem expField_lt (w : Word) : expField w < 256 := Nat.mod_lt _ (by decide)

theorem fracField_lt (w : Word) : fracField w < 2 ^ 23 := Nat.mod_lt _ (by decide)

/-- Bits 30:0 are the two fields. -/
theorem mod_eq_fields (w : Word) : w.toNat % 2 ^ 31 = expField w * 2 ^ 23 + fracField w := by
  simp only [expField, fracField]
  omega

/-! ## The classes -/

theorem class_cases (w : Word) : IsNaN w ∨ IsInf w ∨ IsFinite w := by
  have h := expField_lt w
  simp only [IsNaN, IsInf, IsFinite]
  omega

/-- The magnitude of a finite word in units of 2^-149. -/
def units (w : Word) : Nat :=
  if expField w = 0 then fracField w else (2 ^ 23 + fracField w) * 2 ^ (expField w - 1)

/-- `unpack` by the fields that the classes of R120 speak of. -/
theorem unpack_eq (w : Word) : unpack w =
    if expField w = 255 then (if fracField w = 0 then .inf (isNeg w) else .nan) else .fin (isNeg w) (units w) := by
  have he : (w.extractLsb 30 23).toNat = expField w := by
    simp [expField, BitVec.extractLsb_toNat, Nat.shiftRight_eq_div_pow]
  have hf : (w.extractLsb 22 0).toNat = fracField w := by
    simp [fracField, BitVec.extractLsb_toNat]
  have hs : w.msb = isNeg w := BitVec.msb_eq_decide w
  simp only [unpack, he, hf, hs, units]
  split
  · rfl
  · split <;> rfl

theorem unpack_of_isNaN {w : Word} (h : IsNaN w) : unpack w = .nan := by
  rw [unpack_eq, if_pos h.1, if_neg h.2]

theorem unpack_of_isInf {w : Word} (h : IsInf w) : unpack w = .inf (isNeg w) := by
  rw [unpack_eq, if_pos h.1, if_pos h.2]

theorem unpack_of_isFinite {w : Word} (h : IsFinite w) : unpack w = .fin (isNeg w) (units w) := by
  rw [unpack_eq, if_neg (Nat.ne_of_lt h)]

theorem eq_infinity_of_isInf {w : Word} (h : IsInf w) : w = infinity (isNeg w) := by
  obtain ⟨he, hf⟩ := h
  conv_lhs => rw [← signed_isNeg_mod w, mod_eq_fields, he, hf]
  rfl

/-- The infinity of an exclusive-or of signs, as R123 and R124 write it. -/
theorem infinity_bne (s t : Bool) : infinity (s != t) = if s = t then 0x7F800000 else 0xFF800000 := by
  revert s t
  decide

/-- The zero of an exclusive-or of signs. -/
theorem signed_bne_zero (s t : Bool) : signed (s != t) 0 = if s = t then 0x00000000 else 0x80000000 := by
  revert s t
  decide

/-! ## Values -/

/-- The sign of a value as a factor. -/
def signOf (neg : Bool) : Int := if neg then -1 else 1

theorem signedUnits_eq (neg : Bool) (m : Nat) : signedUnits neg m = signOf neg * m := by
  cases neg <;> simp [signedUnits, signOf]

theorem signOf_bne (s t : Bool) : signOf (s != t) = signOf s * signOf t := by
  revert s t
  decide

theorem signOf_mul_self (s : Bool) : signOf s * signOf s = 1 := by
  revert s
  decide

/-- The value of a finite word in units of 2^-149. -/
def intUnits (w : Word) : Int := signedUnits (isNeg w) (units w)

theorem intUnits_eq (w : Word) : intUnits w = signOf (isNeg w) * units w := signedUnits_eq _ _

theorem magnitude_eq (w : Word) : magnitude w = (units w : ℚ) / 2 ^ 149 := by
  unfold magnitude units
  split
  · rfl
  next h =>
    obtain ⟨e, he⟩ := Nat.exists_eq_succ_of_ne_zero h
    rw [he, Nat.succ_eq_add_one, Nat.add_sub_cancel]
    push_cast
    ring

theorem value_eq (w : Word) : value w = (intUnits w : ℚ) / 2 ^ 149 := by
  rw [value, magnitude_eq, intUnits, signedUnits]
  split <;> push_cast <;> ring

theorem value_eq_zero_iff (w : Word) : value w = 0 ↔ units w = 0 := by
  rw [value_eq, intUnits_eq]
  cases isNeg w <;> simp [signOf]

theorem value_lt_iff (x y : Word) : value x < value y ↔ intUnits x < intUnits y := by
  rw [value_eq, value_eq, div_lt_div_iff_of_pos_right (by positivity), Int.cast_lt]

theorem value_eq_iff (x y : Word) : value x = value y ↔ intUnits x = intUnits y := by
  rw [value_eq, value_eq, div_left_inj' (by positivity), Int.cast_inj]

/-- Only the two zeros have no magnitude. -/
theorem eq_zero_of_units_eq_zero {w : Word} (h : units w = 0) : w = signed (isNeg w) 0 := by
  have he : expField w = 0 := by
    by_contra hne
    rw [units, if_neg hne] at h
    simp at h
  rw [units, if_pos he] at h
  conv_lhs => rw [← signed_isNeg_mod w, mod_eq_fields, he, h, Nat.zero_mul]

end Sys2Proof.Machine

/-! SUPPORT. Rounding (R121): what `roundTo` returns, and that it is the nearest word. -/

namespace Sys2Proof.Machine

/-! ## The nearest natural number -/

/-- Of two natural numbers equally near the even one is taken. -/
theorem nearestEven_even_of_tie {n d : Nat} (hd : 0 < d)
    (h : 2 * n = 2 * d * nearestEven n d + d ∨ 2 * d * nearestEven n d = 2 * n + d) : nearestEven n d % 2 = 0 := by
  have e := Nat.div_add_mod n d
  have l := Nat.mod_lt n hd
  unfold nearestEven at h ⊢
  generalize n / d = q at *
  generalize n % d = r at *
  subst e
  have e : 2 * d * q = 2 * (d * q) := Nat.mul_assoc 2 d q
  split at h
  next hup =>
    rw [Nat.mul_add (2 * d), e] at h
    rw [if_pos hup]
    omega
  next hdown =>
    rw [e] at h
    rw [if_neg hdown]
    omega

/-- The distance to the nearest natural number is at most a half. -/
theorem abs_nearestEven_sub_le (n : Nat) {d : Nat} (hd : 0 < d) : |(nearestEven n d : ℚ) - n / d| ≤ 1 / 2 := by
  obtain ⟨hlo, hhi⟩ := nearestEven_near n d hd
  have hlo' : (2 * n : ℚ) ≤ 2 * d * nearestEven n d + d := by exact_mod_cast hlo
  have hhi' : (2 * d * nearestEven n d : ℚ) ≤ 2 * n + d := by exact_mod_cast hhi
  have hd' : (0 : ℚ) < d := by exact_mod_cast hd
  rw [abs_le]
  constructor
  · have : (n / d : ℚ) ≤ nearestEven n d + 1 / 2 := by
      rw [div_le_iff₀ hd']
      linarith
    linarith
  · have : (nearestEven n d - 1 / 2 : ℚ) ≤ n / d := by
      rw [le_div_iff₀ hd']
      linarith
    linarith

/-- At distance exactly a half the even one is taken. -/
theorem nearestEven_even_of_abs_eq {n d : Nat} (hd : 0 < d) (h : |(nearestEven n d : ℚ) - n / d| = 1 / 2) :
    nearestEven n d % 2 = 0 := by
  have hd' : (d : ℚ) ≠ 0 := by exact_mod_cast hd.ne'
  apply nearestEven_even_of_tie hd
  rcases (abs_eq (by norm_num)).mp h with h | h
  · right
    field_simp at h
    have : (2 * d * nearestEven n d : ℚ) = 2 * n + d := by linarith
    exact_mod_cast this
  · left
    field_simp at h
    have : (2 * n : ℚ) = 2 * d * nearestEven n d + d := by linarith
    exact_mod_cast this

/-- No integer is nearer, and one equally near leaves the even one. -/
theorem nearestEven_nearest (n : Nat) {d : Nat} (hd : 0 < d) (N : Int) :
    |(nearestEven n d : ℚ) - n / d| ≤ |(N : ℚ) - n / d| ∧
      (|(N : ℚ) - n / d| = |(nearestEven n d : ℚ) - n / d| → N = nearestEven n d ∨ nearestEven n d % 2 = 0) := by
  by_cases hN : N = nearestEven n d
  · subst hN
    exact ⟨le_rfl, fun _ => .inl rfl⟩
  · have hhalf := abs_nearestEven_sub_le n hd
    have hone : (1 : ℚ) ≤ |(N : ℚ) - nearestEven n d| := by
      exact_mod_cast Int.one_le_abs (sub_ne_zero.mpr hN)
    have htri := abs_sub_le (N : ℚ) (n / d) (nearestEven n d)
    rw [abs_sub_comm (n / d : ℚ)] at htri
    exact ⟨by linarith, fun htie => .inr (nearestEven_even_of_abs_eq hd (by linarith))⟩

/-! ## The spacing -/

theorem lt_of_spacing (n : Nat) {d : Nat} (hd : 0 < d) : n < 2 ^ 24 * (d * 2 ^ spacing n d) := by
  have h : n / d < 2 ^ (24 + spacing n d) := by
    refine Nat.lt_log2_self.trans_le (Nat.pow_le_pow_right (by decide) ?_)
    unfold spacing
    omega
  rw [Nat.div_lt_iff_lt_mul hd, Nat.pow_add] at h
  linarith

theorem le_of_spacing_ne_zero {n d : Nat} (hd : 0 < d) (h : spacing n d ≠ 0) :
    2 ^ 23 * (d * 2 ^ spacing n d) ≤ n := by
  unfold spacing at h ⊢
  have hpow : 2 ^ (23 + ((n / d).log2 - 23)) ≤ n / d := by
    rw [Nat.add_sub_cancel' (by omega)]
    refine Nat.log2_self_le ?_
    intro hz
    rw [hz] at h
    exact h rfl
  rw [Nat.le_div_iff_mul_le hd, Nat.pow_add] at hpow
  linarith

/-- The significand before overflow: n/d in units of its spacing, rounded. -/
def significand (n d : Nat) : Nat := nearestEven n (d * 2 ^ spacing n d)

theorem roundedBits_eq (n d : Nat) :
    roundedBits n d = min (spacing n d * 2 ^ 23 + significand n d) 0x7F800000 := rfl

theorem significand_le (n : Nat) {d : Nat} (hd : 0 < d) : significand n d ≤ 2 ^ 24 := by
  have hD : 0 < d * 2 ^ spacing n d := by positivity
  have hlt := lt_of_spacing n hd
  obtain ⟨_, hnear⟩ := nearestEven_near n (d * 2 ^ spacing n d) hD
  unfold significand
  by_contra hgt
  have hmul := Nat.mul_le_mul_left (2 * (d * 2 ^ spacing n d)) (Nat.succ_le_of_lt (Nat.lt_of_not_le hgt))
  linarith

theorem le_significand {n d : Nat} (hd : 0 < d) (h : spacing n d ≠ 0) : 2 ^ 23 ≤ significand n d := by
  have hD : 0 < d * 2 ^ spacing n d := by positivity
  have hle := le_of_spacing_ne_zero hd h
  obtain ⟨hnear, _⟩ := nearestEven_near n (d * 2 ^ spacing n d) hD
  unfold significand
  by_contra hlt
  have hmul := Nat.mul_le_mul_left (2 * (d * 2 ^ spacing n d)) (Nat.succ_le_of_lt (Nat.lt_of_not_le hlt))
  linarith

/-! ## The grid of the finite words -/

/-- The units of a word put together from a spacing `k` and a significand `M`. -/
theorem units_signed (neg : Bool) {k M : Nat} (hM : M ≤ 2 ^ 24) (hk : k ≠ 0 → 2 ^ 23 ≤ M)
    (hb : k * 2 ^ 23 + M < 2 ^ 31) : units (signed neg (k * 2 ^ 23 + M)) = M * 2 ^ k := by
  rw [units, expField_signed neg hb, fracField_signed neg hb]
  rcases Nat.lt_or_ge M (2 ^ 23) with hlt | hge
  · have hk0 : k = 0 := by
      by_contra hne
      exact absurd (hk hne) (by omega)
    subst hk0
    rw [if_pos (by omega)]
    omega
  · rcases Nat.lt_or_ge M (2 ^ 24) with hlt | hge'
    · have he : (k * 2 ^ 23 + M) / 2 ^ 23 = k + 1 := by omega
      have hf : 2 ^ 23 + (k * 2 ^ 23 + M) % 2 ^ 23 = M := by omega
      rw [he, hf, if_neg (Nat.succ_ne_zero k), Nat.add_sub_cancel]
    · have he : (k * 2 ^ 23 + M) / 2 ^ 23 = k + 2 := by omega
      have hf : 2 ^ 23 + (k * 2 ^ 23 + M) % 2 ^ 23 = 2 ^ 23 := by omega
      have hM' : M = 2 ^ 23 * 2 := by omega
      rw [he, hf, if_neg (Nat.succ_ne_zero (k + 1)), hM']
      change 2 ^ 23 * 2 ^ (k + 1) = 2 ^ 23 * 2 * 2 ^ k
      ring

/-- A finite word is on the grid of spacing 2^k units, or below where that grid begins. -/
theorem units_on_grid (w : Word) (k : Nat) : 2 ^ k ∣ units w ∨ units w < 2 ^ 23 * 2 ^ k := by
  have hf := fracField_lt w
  unfold units
  split
  · exact .inr (hf.trans_le (Nat.le_mul_of_pos_right _ (by positivity)))
  · rcases Nat.lt_or_ge (expField w - 1) k with hlt | hge
    · right
      calc (2 ^ 23 + fracField w) * 2 ^ (expField w - 1)
          < 2 ^ 24 * 2 ^ (expField w - 1) := Nat.mul_lt_mul_of_pos_right (by omega) (by positivity)
        _ = 2 ^ 23 * 2 ^ (expField w - 1 + 1) := by ring
        _ ≤ 2 ^ 23 * 2 ^ k := Nat.mul_le_mul_left _ (Nat.pow_le_pow_right (by decide) hlt)
    · exact .inl ((Nat.pow_dvd_pow 2 hge).mul_left _)

/-- The same of the signed units, seen from either sign. -/
theorem intUnits_on_grid (w : Word) (neg : Bool) (k : Nat) :
    (2 ^ k : Int) ∣ signOf neg * intUnits w ∨ signOf neg * intUnits w < 2 ^ 23 * 2 ^ k := by
  rw [intUnits_eq, ← mul_assoc, ← signOf_bne]
  rcases units_on_grid w k with hdvd | hlt
  · exact .inl ((by exact_mod_cast hdvd : (2 ^ k : Int) ∣ units w).mul_left _)
  · right
    have hlt' : (units w : Int) < 2 ^ 23 * 2 ^ k := by exact_mod_cast hlt
    cases neg != isNeg w
    · simpa [signOf] using hlt'
    · simp only [signOf, if_true, neg_one_mul]
      omega

/-- On the grid and below it, nothing is nearer to n/d than the rounded significand. -/
theorem significand_nearest (n : Nat) {d : Nat} (hd : 0 < d) {U : Int}
    (hU : (2 ^ spacing n d : Int) ∣ U ∨ U < 2 ^ 23 * 2 ^ spacing n d) :
    |(significand n d * 2 ^ spacing n d : ℚ) - n / d| ≤ |(U : ℚ) - n / d| ∧
      (|(U : ℚ) - n / d| = |(significand n d * 2 ^ spacing n d : ℚ) - n / d| →
        U = significand n d * 2 ^ spacing n d ∨ significand n d % 2 = 0) := by
  have hpow : (0 : ℚ) < 2 ^ spacing n d := by positivity
  have hscale (a : ℚ) : |a * 2 ^ spacing n d - n / d| =
      |a - n / ((d * 2 ^ spacing n d : Nat) : ℚ)| * 2 ^ spacing n d := by
    rw [← abs_of_pos hpow, ← abs_mul, abs_of_pos hpow]
    push_cast
    congr 1
    field_simp
  have hD : 0 < d * 2 ^ spacing n d := by positivity
  have ongrid (N : Int) := nearestEven_nearest n hD N
  by_cases hdvd : (2 ^ spacing n d : Int) ∣ U
  · obtain ⟨N, rfl⟩ := hdvd
    obtain ⟨hle, htie⟩ := ongrid N
    push_cast
    rw [mul_comm _ (N : ℚ), mul_comm _ N, hscale, hscale, mul_left_inj' hpow.ne']
    refine ⟨mul_le_mul_of_nonneg_right hle hpow.le, fun h => ?_⟩
    rcases htie h with h | h
    · exact .inl (by rw [h]; rfl)
    · exact .inr h
  · have hlt := hU.resolve_left hdvd
    have hk : spacing n d ≠ 0 := by
      intro h0
      rw [h0] at hdvd
      exact hdvd (one_dvd U)
    have hlow : (2 ^ 23 * 2 ^ spacing n d : ℚ) ≤ n / d := by
      rw [le_div_iff₀ (by exact_mod_cast hd)]
      have := le_of_spacing_ne_zero hd hk
      rw [Nat.mul_comm d, ← Nat.mul_assoc] at this
      exact_mod_cast this
    have hlt' : (U : ℚ) < 2 ^ 23 * 2 ^ spacing n d := by exact_mod_cast hlt
    have hbase := mul_le_mul_of_nonneg_right (ongrid (2 ^ 23)).1 hpow.le
    rw [← hscale, ← hscale, Int.cast_pow, Int.cast_ofNat] at hbase
    rw [abs_of_nonpos (by linarith : (2 ^ 23 * 2 ^ spacing n d : ℚ) - n / d ≤ 0)] at hbase
    have hstrict : |(significand n d * 2 ^ spacing n d : ℚ) - n / d| < |(U : ℚ) - n / d| := by
      rw [abs_of_neg (by linarith : (U : ℚ) - n / d < 0)]
      exact hbase.trans_lt (by linarith)
    exact ⟨hstrict.le, fun h => absurd h hstrict.ne'⟩

/-! ## Overflow -/

/-- What rounds to less than an even number `m` is what lies below m - 1/2: the tie there goes to `m`. -/
theorem nearestEven_lt_iff {n d m : Nat} (hd : 0 < d) (hm : m % 2 = 0) :
    nearestEven n d < m ↔ 2 * n + d < 2 * d * m := by
  obtain ⟨hlo, hhi⟩ := nearestEven_near n d hd
  constructor
  · intro hlt
    have hmul : 2 * d * (nearestEven n d + 1) ≤ 2 * d * m := Nat.mul_le_mul_left _ hlt
    rw [Nat.mul_add] at hmul
    by_contra hge
    have htie := nearestEven_even_of_tie hd (.inl (by omega : 2 * n = 2 * d * nearestEven n d + d))
    have hnext : 2 * d * m ≤ 2 * d * (nearestEven n d + 1) := by
      rw [Nat.mul_add]
      omega
    have := Nat.le_of_mul_le_mul_left hnext (by omega)
    omega
  · intro hlt
    exact Nat.lt_of_mul_lt_mul_left (hhi.trans_lt hlt)

/-- A magnitude is rounded to infinity exactly from halfway between the largest finite value and 2^128 on. -/
theorem roundedBits_lt_iff (n : Nat) {d : Nat} (hd : 0 < d) :
    roundedBits n d < 0x7F800000 ↔ n < (2 ^ 25 - 1) * 2 ^ 252 * d := by
  have hM := significand_le n hd
  rw [roundedBits_eq]
  rcases Nat.lt_trichotomy (spacing n d) 253 with hk | hk | hk
  · have hn := lt_of_spacing n hd
    have hpow : d * 2 ^ spacing n d ≤ d * 2 ^ 252 :=
      Nat.mul_le_mul_left d (Nat.pow_le_pow_right (by decide) (by omega))
    omega
  · have hsig := nearestEven_lt_iff (n := n) (m := 2 ^ 24) (by positivity : 0 < d * 2 ^ spacing n d) rfl
    change significand n d < _ ↔ _ at hsig
    rw [hk] at hsig ⊢
    omega
  · have hn := le_of_spacing_ne_zero (n := n) hd (by omega)
    have hM' := le_significand (n := n) hd (by omega)
    have hpow : d * 2 ^ 254 ≤ d * 2 ^ spacing n d :=
      Nat.mul_le_mul_left d (Nat.pow_le_pow_right (by decide) hk)
    omega

/-! ## The rounded word -/

theorem isNeg_roundTo (neg : Bool) (n d : Nat) : isNeg (roundTo neg n d) = neg :=
  isNeg_signed neg ((roundedBits_le n d).trans_lt (by decide))

theorem roundTo_of_overflow (neg : Bool) {n d : Nat} (h : ¬roundedBits n d < 0x7F800000) :
    roundTo neg n d = infinity neg := by
  rw [roundTo, Nat.le_antisymm (roundedBits_le n d) (Nat.not_lt.mp h), infinity]

section Finite
variable {n d : Nat} (h : roundedBits n d < 0x7F800000)
include h

theorem roundedBits_of_lt : roundedBits n d = spacing n d * 2 ^ 23 + significand n d := by
  rw [roundedBits_eq] at h ⊢
  omega

theorem isFinite_roundTo (neg : Bool) : IsFinite (roundTo neg n d) := by
  rw [IsFinite, roundTo, expField_signed neg (by omega)]
  omega

theorem intUnits_roundTo (neg : Bool) (hd : 0 < d) :
    intUnits (roundTo neg n d) = signOf neg * (significand n d * 2 ^ spacing n d : Nat) := by
  have hbits := roundedBits_of_lt h
  rw [intUnits_eq, isNeg_roundTo, roundTo, hbits,
    units_signed neg (significand_le n hd) (le_significand hd) (by omega)]

/-- A finite rounded word is even with its significand. -/
theorem roundTo_toNat_mod_two (neg : Bool) : (roundTo neg n d).toNat % 2 = significand n d % 2 := by
  have hbits := roundedBits_of_lt h
  rw [roundTo, signed_toNat neg _ (by omega), hbits]
  split <;> omega

end Finite

/-- The distance of a word's value from `q`, in units and from the sign of `q`. -/
theorem abs_value_sub (w : Word) (neg : Bool) (r : ℚ) :
    |value w - signOf neg * r / 2 ^ 149| = |((signOf neg * intUnits w : Int) : ℚ) - r| / 2 ^ 149 := by
  have hpos : (0 : ℚ) < 2 ^ 149 := by positivity
  rw [value_eq, ← sub_div, abs_div, abs_of_pos hpos]
  congr 1
  cases neg
  · simp [signOf]
  · simp only [signOf, if_true, Int.cast_neg, Int.cast_one, Int.cast_mul]
    rw [← abs_neg]
    congr 1
    ring

/-- A rounded word is the nearest of the finite words, where it is finite (R121). -/
theorem roundTo_nearest (neg : Bool) {n d : Nat} (hd : 0 < d) (h : roundedBits n d < 0x7F800000) (z : Word) :
    |value (roundTo neg n d) - signOf neg * (n / d) / 2 ^ 149| ≤ |value z - signOf neg * (n / d) / 2 ^ 149| ∧
      (|value z - signOf neg * (n / d) / 2 ^ 149| = |value (roundTo neg n d) - signOf neg * (n / d) / 2 ^ 149| →
        value z = value (roundTo neg n d) ∨ (roundTo neg n d).toNat % 2 = 0) := by
  have hpos : (0 : ℚ) < 2 ^ 149 := by positivity
  have hround : signOf neg * intUnits (roundTo neg n d) = (significand n d * 2 ^ spacing n d : Nat) := by
    rw [intUnits_roundTo h neg hd, ← mul_assoc, signOf_mul_self, one_mul]
  obtain ⟨hle, htie⟩ := significand_nearest n hd (intUnits_on_grid z neg (spacing n d))
  rw [abs_value_sub, abs_value_sub, hround, div_le_div_iff_of_pos_right hpos, div_left_inj' hpos.ne',
    roundTo_toNat_mod_two h, value_eq_iff, Int.cast_natCast, Nat.cast_mul, Nat.cast_pow, Nat.cast_ofNat]
  refine ⟨hle, fun heq => (htie heq).imp_left fun hU => ?_⟩
  rw [intUnits_roundTo h neg hd]
  push_cast
  rw [← hU, ← mul_assoc, signOf_mul_self, one_mul]

/-- `roundTo` rounds n/d units of its sign correctly (R121). -/
theorem roundsTo_roundTo (neg : Bool) (n : Nat) {d : Nat} (hd : 0 < d) :
    RoundsTo (signOf neg * (n / d) / 2 ^ 149) (roundTo neg n d) := by
  have hd' : (0 : ℚ) < d := by exact_mod_cast hd
  have habs : |(signOf neg * (n / d) / 2 ^ 149 : ℚ)| = n / d / 2 ^ 149 := by
    have hs : |(signOf neg : ℚ)| = 1 := by cases neg <;> simp [signOf]
    rw [abs_div, abs_mul, hs, one_mul, abs_of_nonneg (by positivity), abs_of_nonneg (by positivity)]
  have hlimit : |(signOf neg * (n / d) / 2 ^ 149 : ℚ)| < 2 ^ 128 - 2 ^ 103 ↔ roundedBits n d < 0x7F800000 := by
    rw [habs, roundedBits_lt_iff n hd, div_lt_iff₀ (by positivity), div_lt_iff₀ hd', ← Nat.cast_lt (α := ℚ),
      Nat.cast_mul]
    norm_num
  constructor
  · intro hlt
    have h := hlimit.mp hlt
    exact ⟨isFinite_roundTo h neg, fun z _ => roundTo_nearest neg hd h z⟩
  · intro hge
    have h := mt hlimit.mpr (not_lt.mpr hge)
    have hn : (0 : ℚ) < n / d / 2 ^ 149 := by
      rw [habs] at hge
      exact lt_of_lt_of_le (by norm_num) hge
    rw [roundTo_of_overflow neg h]
    cases neg
    · rw [if_neg (by simp only [signOf]; simpa using hn.le)]
      rfl
    · rw [if_pos (by simp only [signOf, if_true, Int.cast_neg, Int.cast_one, neg_one_mul, neg_div]; linarith)]
      rfl

end Sys2Proof.Machine

/-! CERTIFICATES. The arithmetic primitives (R122 to R127): special cases by the class of the operands, correct rounding
by `roundsTo_roundTo`. -/

namespace Sys2Proof.Machine

/-! ## NaN operands -/

theorem fadd_of_isNaN {x y : Word} (h : IsNaN x ∨ IsNaN y) : fadd x y = nanCanon := by
  rcases h with h | h
  · rw [fadd, unpack_of_isNaN h]
  · rw [fadd, unpack_of_isNaN h]
    cases unpack x <;> rfl

theorem fsub_of_isNaN {y : Word} (x : Word) (h : IsNaN y) : fsub x y = nanCanon := by
  rw [fsub, unpack_of_isNaN h]

theorem fsub_of_not_isNaN (x : Word) {y : Word} (h : ¬IsNaN y) : fsub x y = fadd x (fneg y) := by
  rw [fsub]
  rcases (class_cases y).resolve_left h with h | h
  · rw [unpack_of_isInf h]
  · rw [unpack_of_isFinite h]

theorem fmul_of_isNaN {x y : Word} (h : IsNaN x ∨ IsNaN y) : fmul x y = nanCanon := by
  rcases h with h | h
  · rw [fmul, unpack_of_isNaN h]
  · rw [fmul, unpack_of_isNaN h]
    cases unpack x <;> rfl

theorem fdiv_of_isNaN {x y : Word} (h : IsNaN x ∨ IsNaN y) : fdiv x y = nanCanon := by
  rcases h with h | h
  · rw [fdiv, unpack_of_isNaN h]
  · rw [fdiv, unpack_of_isNaN h]
    cases unpack x <;> rfl

/-! ## Sums -/

theorem fadd_of_isFinite {x y : Word} (hx : IsFinite x) (hy : IsFinite y) :
    fadd x y = roundSum (isNeg x && isNeg y) (intUnits x + intUnits y) := by
  rw [fadd, unpack_of_isFinite hx, unpack_of_isFinite hy]
  rfl

/-- An infinity and a finite word, or itself, add up to it (R122). -/
theorem fadd_of_isInf {x y : Word} (hx : IsInf x) (hy : IsFinite y ∨ y = x) : fadd x y = x ∧ fadd y x = x := by
  have hinf := eq_infinity_of_isInf hx
  rcases hy with hy | rfl
  · simp only [fadd, unpack_of_isInf hx, unpack_of_isFinite hy, ← hinf, and_self]
  · simp only [fadd, unpack_of_isInf hx, if_true, ← hinf, and_self]

/-- Nothing rounds to nothing. -/
theorem roundTo_zero (neg : Bool) {d : Nat} (hd : 0 < d) : roundTo neg 0 d = signed neg 0 := by
  have hzero : nearestEven 0 (d * 2 ^ spacing 0 d) = 0 := nearestEven_mul 0 _ (by positivity)
  rw [roundTo, roundedBits, hzero, spacing, Nat.zero_div]
  rfl

/-- The sign that a rounded sum takes. -/
def sumSign (bothNeg : Bool) (z : Int) : Bool := if z = 0 then bothNeg else decide (z < 0)

theorem roundSum_eq (bothNeg : Bool) (z : Int) : roundSum bothNeg z = roundTo (sumSign bothNeg z) z.natAbs 1 := by
  unfold roundSum sumSign
  split
  next h => rw [h, Int.natAbs_zero, roundTo_zero _ one_pos]
  · rfl

theorem signOf_sumSign_mul_natAbs (bothNeg : Bool) (z : Int) : signOf (sumSign bothNeg z) * z.natAbs = z := by
  unfold sumSign signOf
  split
  next h => rw [h, Int.natAbs_zero, Int.natCast_zero, mul_zero]
  · simp only [decide_eq_true_eq]
    split <;> omega

/-- A sum of units is rounded correctly (R121). -/
theorem roundsTo_roundSum (bothNeg : Bool) (z : Int) : RoundsTo (z / 2 ^ 149) (roundSum bothNeg z) := by
  have h := roundsTo_roundTo (sumSign bothNeg z) z.natAbs one_pos
  rw [Nat.cast_one, div_one, ← Int.cast_natCast, ← Int.cast_mul, signOf_sumSign_mul_natAbs] at h
  rwa [roundSum_eq]

theorem value_add (x y : Word) : value x + value y = ((intUnits x + intUnits y : Int) : ℚ) / 2 ^ 149 := by
  rw [value_eq, value_eq, ← add_div, Int.cast_add]

/-- The zero rule of R122. -/
theorem fadd_of_value_add_eq_zero {x y : Word} (hx : IsFinite x) (hy : IsFinite y) (h : value x + value y = 0) :
    fadd x y = if x = 0x80000000 ∧ y = 0x80000000 then 0x80000000 else 0x00000000 := by
  have hz : intUnits x + intUnits y = 0 := by
    rw [value_add, div_eq_zero_iff] at h
    exact_mod_cast h.resolve_right (by positivity)
  rw [fadd_of_isFinite hx hy, hz]
  change signed (isNeg x && isNeg y) 0 = _
  split
  next hneg =>
    rw [hneg.1, hneg.2]
    decide
  next hneg =>
    cases hsx : isNeg x
    · rfl
    · cases hsy : isNeg y
      · rfl
      · rw [intUnits_eq, intUnits_eq, hsx, hsy] at hz
        simp only [signOf, if_true] at hz
        refine absurd ⟨?_, ?_⟩ hneg
        · rw [eq_zero_of_units_eq_zero (w := x) (by omega), hsx]
          rfl
        · rw [eq_zero_of_units_eq_zero (w := y) (by omega), hsy]
          rfl

/-- Settles O47: the classes of the operands, and `roundsTo_roundSum` for two finite words. -/
theorem additionIsCorrect : Obligations.AdditionIsCorrect := by
  refine ⟨fun x y h => ⟨fadd_of_isNaN h, ?_⟩, by decide, by decide, fun x y => fadd_of_isInf,
    fun x y => fadd_of_value_add_eq_zero, fun x y hx hy => ?_, fun x y => fsub_of_not_isNaN x⟩
  · by_cases hy : IsNaN y
    · exact fsub_of_isNaN x hy
    · rw [fsub_of_not_isNaN x hy]
      exact fadd_of_isNaN (.inl (h.resolve_right hy))
  · rw [value_add, fadd_of_isFinite hx hy]
    exact roundsTo_roundSum _ _

/-! ## Products -/

theorem fmul_of_isFinite {x y : Word} (hx : IsFinite x) (hy : IsFinite y) :
    fmul x y = roundTo (isNeg x != isNeg y) (units x * units y) (2 ^ 149) := by
  rw [fmul, unpack_of_isFinite hx, unpack_of_isFinite hy]

/-- Zero times infinity, in either order (R123). -/
theorem fmul_of_isInf_of_zero {x y : Word} (hx : IsInf x) (hy : IsFinite y) (h0 : value y = 0) :
    fmul x y = nanCanon ∧ fmul y x = nanCanon := by
  have hu := (value_eq_zero_iff y).mp h0
  simp only [fmul, unpack_of_isInf hx, unpack_of_isFinite hy, hu, if_true, and_self]

/-- Infinity times anything that is neither zero nor a NaN (R123). -/
theorem fmul_of_isInf {x y : Word} (hx : IsInf x) (hy : ¬IsNaN y) (h0 : ¬(IsFinite y ∧ value y = 0)) :
    fmul x y = infinity (isNeg x != isNeg y) ∧ fmul y x = infinity (isNeg x != isNeg y) := by
  rw [bne_comm]
  rcases (class_cases y).resolve_left hy with hy | hy
  · simp only [fmul, unpack_of_isInf hx, unpack_of_isInf hy, bne_comm, and_self]
  · have hu : units y ≠ 0 := fun hu => h0 ⟨hy, (value_eq_zero_iff y).mpr hu⟩
    simp only [fmul, unpack_of_isInf hx, unpack_of_isFinite hy, if_neg hu, bne_comm, and_self]

theorem value_mul (x y : Word) : value x * value y =
    signOf (isNeg x != isNeg y) * (((units x * units y : Nat) : ℚ) / ((2 ^ 149 : Nat) : ℚ)) / 2 ^ 149 := by
  rw [value_eq, value_eq, intUnits_eq, intUnits_eq, signOf_bne]
  push_cast
  ring

/-- Settles O48: the classes of the operands, and `roundsTo_roundTo` for two finite words. -/
theorem multiplicationIsCorrect : Obligations.MultiplicationIsCorrect := by
  refine ⟨fun x y => fmul_of_isNaN, fun x y => fmul_of_isInf_of_zero, fun x y hx hy h0 => ?_, fun x y hx hy => ?_⟩
  · obtain ⟨hxy, hyx⟩ := fmul_of_isInf hx hy h0
    exact ⟨hxy.trans (infinity_bne _ _), hyx.trans hxy.symm⟩
  · rw [value_mul, fmul_of_isFinite hx hy]
    exact ⟨roundsTo_roundTo _ _ (by positivity), isNeg_roundTo _ _ _⟩

/-! ## Quotients -/

theorem fdiv_of_isInf {x y : Word} (hx : IsInf x) (hy : IsInf y) : fdiv x y = nanCanon := by
  rw [fdiv, unpack_of_isInf hx, unpack_of_isInf hy]

theorem fdiv_of_isFinite_of_isInf {x y : Word} (hx : IsFinite x) (hy : IsInf y) :
    fdiv x y = signed (isNeg x != isNeg y) 0 := by
  rw [fdiv, unpack_of_isFinite hx, unpack_of_isInf hy]

theorem fdiv_of_isInf_of_isFinite {x y : Word} (hx : IsInf x) (hy : IsFinite y) :
    fdiv x y = infinity (isNeg x != isNeg y) := by
  rw [fdiv, unpack_of_isInf hx, unpack_of_isFinite hy]

/-- Division of finite words by the two cases of the divisor (R124). -/
theorem fdiv_of_isFinite {x y : Word} (hx : IsFinite x) (hy : IsFinite y) : fdiv x y =
    if units y = 0 then (if units x = 0 then nanCanon else infinity (isNeg x != isNeg y))
    else roundTo (isNeg x != isNeg y) (units x * 2 ^ 149) (units y) := by
  rw [fdiv, unpack_of_isFinite hx, unpack_of_isFinite hy]

theorem value_div {x y : Word} (hy : units y ≠ 0) : value x / value y =
    signOf (isNeg x != isNeg y) * (((units x * 2 ^ 149 : Nat) : ℚ) / units y) / 2 ^ 149 := by
  have hs : (signOf (isNeg y) : ℚ) * signOf (isNeg y) = 1 := by exact_mod_cast signOf_mul_self (isNeg y)
  have hs0 : (signOf (isNeg y) : ℚ) ≠ 0 := left_ne_zero_of_mul_eq_one hs
  have hy' : (units y : ℚ) ≠ 0 := by exact_mod_cast hy
  rw [value_eq, value_eq, intUnits_eq, intUnits_eq, signOf_bne]
  push_cast
  field_simp
  linear_combination -(signOf (isNeg x) * units x * 2 ^ 149 : ℚ) * hs

/-- Settles O49: the classes of the operands, and `roundsTo_roundTo` for a finite word by a finite non-zero one. -/
theorem divisionIsCorrect : Obligations.DivisionIsCorrect := by
  refine ⟨fun x y => fdiv_of_isNaN, fun x y hx hy hx0 hy0 => ?_, fun x y => fdiv_of_isInf,
    fun x y hx hy hx0 hy0 => ?_, fun x y hx hy => ?_, fun x y hx hy => ?_, fun x y hx hy hx0 hy0 => ?_,
    fun x y hx hy hy0 => ?_⟩
  · rw [value_eq_zero_iff] at hx0 hy0
    rw [fdiv_of_isFinite hx hy, if_pos hy0, if_pos hx0]
    rfl
  · rw [Ne, value_eq_zero_iff] at hx0
    rw [value_eq_zero_iff] at hy0
    rw [fdiv_of_isFinite hx hy, if_pos hy0, if_neg hx0, infinity_bne]
  · rw [fdiv_of_isFinite_of_isInf hx hy, signed_bne_zero]
  · rw [fdiv_of_isInf_of_isFinite hx hy, infinity_bne]
  · rw [Ne, value_eq_zero_iff] at hy0
    rw [value_eq_zero_iff] at hx0
    rw [fdiv_of_isFinite hx hy, if_neg hy0, hx0, Nat.zero_mul, roundTo_zero _ (Nat.pos_of_ne_zero hy0),
      signed_bne_zero]
  · rw [Ne, value_eq_zero_iff] at hy0
    rw [fdiv_of_isFinite hx hy, if_neg hy0, value_div hy0]
    exact ⟨roundsTo_roundTo _ _ (Nat.pos_of_ne_zero hy0), isNeg_roundTo _ _ _⟩

/-! ## Comparisons -/

/-- Two finite words compare as their values do (R126). -/
theorem unpack_lt_of_isFinite {x y : Word} (hx : IsFinite x) (hy : IsFinite y) :
    (unpack x).lt (unpack y) = decide (value x < value y) := by
  rw [unpack_of_isFinite hx, unpack_of_isFinite hy]
  exact decide_eq_decide.mpr (value_lt_iff x y).symm

theorem unpack_eq_of_isFinite {x y : Word} (hx : IsFinite x) (hy : IsFinite y) :
    (unpack x).eq (unpack y) = decide (value x = value y) := by
  rw [unpack_of_isFinite hx, unpack_of_isFinite hy]
  exact decide_eq_decide.mpr (value_eq_iff x y).symm

theorem flt_of_isFinite {x y : Word} (hx : IsFinite x) (hy : IsFinite y) : flt x y = decide (value x < value y) :=
  unpack_lt_of_isFinite hx hy

theorem fle_of_isFinite {x y : Word} (hx : IsFinite x) (hy : IsFinite y) : fle x y = decide (value x ≤ value y) := by
  rw [fle, unpack_lt_of_isFinite hx hy, unpack_eq_of_isFinite hx hy, ← Bool.decide_or]
  exact decide_eq_decide.mpr le_iff_lt_or_eq.symm

theorem flt_of_isNaN {x y : Word} (h : IsNaN x ∨ IsNaN y) : flt x y = false := by
  rcases h with h | h
  · rw [flt, unpack_of_isNaN h, FVal.lt]
  · rw [flt, unpack_of_isNaN h]
    cases unpack x <;> rfl

theorem fle_of_isNaN {x y : Word} (h : IsNaN x ∨ IsNaN y) : fle x y = false := by
  rcases h with h | h
  · rw [fle, unpack_of_isNaN h, FVal.lt, FVal.eq, Bool.or_self]
  · rw [fle, unpack_of_isNaN h]
    cases unpack x <;> rfl

theorem unpack_plusInf : unpack 0x7F800000 = .inf false := by decide

theorem unpack_minusInf : unpack 0xFF800000 = .inf true := by decide

/-- A finite word lies strictly between the infinities. -/
theorem flt_inf_of_isFinite {x : Word} (hx : IsFinite x) :
    flt x 0x7F800000 = true ∧ flt 0xFF800000 x = true ∧ flt 0x7F800000 x = false ∧ flt x 0xFF800000 = false := by
  simp only [flt, unpack_plusInf, unpack_minusInf, unpack_of_isFinite hx, FVal.lt, Bool.not_false, Bool.not_true,
    and_self]

theorem fle_inf_of_isFinite {x : Word} (hx : IsFinite x) :
    fle x 0x7F800000 = true ∧ fle 0xFF800000 x = true ∧ fle 0x7F800000 x = false ∧ fle x 0xFF800000 = false := by
  simp only [fle, unpack_plusInf, unpack_minusInf, unpack_of_isFinite hx, FVal.lt, FVal.eq, Bool.not_false,
    Bool.not_true, Bool.or_false, and_self]

/-- Settles O51: by the classes of the operands; `fgt` and `fge` are `flt` and `fle` turned round. -/
theorem comparisonsAreExact : Obligations.ComparisonsAreExact := by
  refine ⟨fun x y h => ⟨flt_of_isNaN h, fle_of_isNaN h, flt_of_isNaN h.symm, fle_of_isNaN h.symm⟩,
    fun x y hx hy => ⟨flt_of_isFinite hx hy, fle_of_isFinite hx hy, flt_of_isFinite hy hx, fle_of_isFinite hy hx⟩,
    fun x hx => ?_, by decide⟩
  obtain ⟨hlt1, hlt2, hlt3, hlt4⟩ := flt_inf_of_isFinite hx
  obtain ⟨hle1, hle2, hle3, hle4⟩ := fle_inf_of_isFinite hx
  exact ⟨hlt1, hlt2, hlt3, hlt4, hle1, hle2, hle3, hle4, hlt1, hlt2, hlt3, hlt4, hle1, hle2, hle3, hle4⟩

end Sys2Proof.Machine

/-! CERTIFICATES. The square root (R125) and the one NaN of the primitives (R127). -/

namespace Sys2Proof.Machine

/-! ## NaN results -/

/-- A word that is no NaN but the canonical one (R127). -/
def NoOtherNaN (w : Word) : Prop := IsNaN w → w = nanCanon

theorem NoOtherNaN.nanCanon : NoOtherNaN nanCanon := fun _ => rfl

theorem NoOtherNaN.signed (neg : Bool) {bits : Nat} (h : bits ≤ 0x7F800000) : NoOtherNaN (signed neg bits) := by
  rintro ⟨he, hf⟩
  rw [expField_signed neg (by omega)] at he
  rw [fracField_signed neg (by omega)] at hf
  omega

theorem NoOtherNaN.infinity (neg : Bool) : NoOtherNaN (infinity neg) := .signed neg le_rfl

theorem NoOtherNaN.signed_zero (neg : Bool) : NoOtherNaN (Machine.signed neg 0) := .signed neg (Nat.zero_le _)

theorem NoOtherNaN.roundTo (neg : Bool) (n d : Nat) : NoOtherNaN (roundTo neg n d) := .signed neg (roundedBits_le n d)

theorem NoOtherNaN.fadd (x y : Word) : NoOtherNaN (fadd x y) := by
  unfold Machine.fadd
  split
  · exact .nanCanon
  · exact .nanCanon
  · split
    · exact .infinity _
    · exact .nanCanon
  · exact .infinity _
  · exact .infinity _
  · rw [roundSum_eq]
    exact .roundTo _ _ _

theorem NoOtherNaN.fsub (x y : Word) : NoOtherNaN (fsub x y) := by
  unfold Machine.fsub
  split
  · exact .nanCanon
  · exact .fadd _ _

theorem NoOtherNaN.fmul (x y : Word) : NoOtherNaN (fmul x y) := by
  unfold Machine.fmul
  split
  · exact .nanCanon
  · exact .nanCanon
  · exact .infinity _
  · split
    · exact .nanCanon
    · exact .infinity _
  · split
    · exact .nanCanon
    · exact .infinity _
  · exact .roundTo _ _ _

theorem NoOtherNaN.fdiv (x y : Word) : NoOtherNaN (fdiv x y) := by
  unfold Machine.fdiv
  split
  · exact .nanCanon
  · exact .nanCanon
  · exact .nanCanon
  · exact .infinity _
  · exact .signed_zero _
  · split
    · split
      · exact .nanCanon
      · exact .infinity _
    · exact .roundTo _ _ _

theorem NoOtherNaN.roundRoot (m : Nat) : NoOtherNaN (roundRoot m) := by
  unfold Machine.roundRoot
  dsimp only
  split
  · exact .roundTo _ _ _
  · exact .roundTo _ _ _

theorem NoOtherNaN.fsqrt (x : Word) : NoOtherNaN (fsqrt x) := by
  unfold Machine.fsqrt
  split
  · exact .nanCanon
  · split
    · exact .nanCanon
    · exact .infinity _
  · split
    · exact .signed_zero _
    · split
      · exact .nanCanon
      · exact .roundRoot _

/-- Settles O52: every branch of a primitive returns the canonical NaN or a sign over at most infinity's bits. -/
theorem everyNaNResultIsCanonical : Obligations.EveryNaNResultIsCanonical :=
  fun x y => ⟨NoOtherNaN.fadd x y, NoOtherNaN.fsub x y, NoOtherNaN.fmul x y, NoOtherNaN.fdiv x y, NoOtherNaN.fsqrt x⟩

/-! ## The sum of two squares -/

theorem isNeg_fmul_self (x : Word) : isNeg (fmul x x) = false := by
  rcases class_cases x with h | h | h
  · rw [fmul_of_isNaN (.inl h)]
    decide
  · simp only [fmul, unpack_of_isInf h, bne_self_eq_false]
    decide
  · rw [fmul_of_isFinite h h, isNeg_roundTo, bne_self_eq_false]

/-- A sum of words without a sign has none. -/
theorem isNeg_fadd {a b : Word} (ha : isNeg a = false) (hb : isNeg b = false) : isNeg (fadd a b) = false := by
  rcases class_cases a with h | h | h
  · rw [fadd_of_isNaN (.inl h)]
    decide
  · rcases class_cases b with h' | h' | h'
    · rw [fadd_of_isNaN (.inr h')]
      decide
    · have hab : b = a := by rw [eq_infinity_of_isInf h, eq_infinity_of_isInf h', ha, hb]
      rw [(fadd_of_isInf h (.inr hab)).1, ha]
    · rw [(fadd_of_isInf h (.inl h')).1, ha]
  · rcases class_cases b with h' | h' | h'
    · rw [fadd_of_isNaN (.inr h')]
      decide
    · rw [(fadd_of_isInf h' (.inl h)).2, hb]
    · have hz : ¬(units a + units b : Int) < 0 := by omega
      rw [fadd_of_isFinite h h', roundSum_eq, isNeg_roundTo, intUnits_eq, intUnits_eq, ha, hb]
      simp [sumSign, signOf, hz]

/-! ## The root between two half units -/

/-- No multiple of a half separates `q` from `s`. -/
def SameSide (q s : ℝ) : Prop := ∀ c : Int, (2 * q ≤ c ↔ 2 * s ≤ c) ∧ ((c : ℝ) ≤ 2 * q ↔ (c : ℝ) ≤ 2 * s)

theorem SameSide.of_between {q s : ℝ} {r : Int} (hq : (r : ℝ) < 2 * q ∧ 2 * q < r + 1)
    (hs : (r : ℝ) < 2 * s ∧ 2 * s < r + 1) : SameSide q s := by
  intro c
  rcases lt_or_ge r c with h | h
  · have hc : (r + 1 : ℝ) ≤ c := by exact_mod_cast h
    constructor <;> constructor <;> intro _ <;> linarith
  · have hc : (c : ℝ) ≤ r := by exact_mod_cast h
    constructor <;> constructor <;> intro _ <;> linarith

/-- Which of two points is the nearer is decided by the side of their midpoint. -/
theorem abs_sub_le_abs_sub_iff_of_lt {a b q : ℝ} (h : a < b) :
    (|a - q| ≤ |b - q| ↔ 2 * q ≤ a + b) ∧ (|b - q| ≤ |a - q| ↔ a + b ≤ 2 * q) := by
  rw [← sq_le_sq, ← sq_le_sq]
  constructor <;> constructor <;> intro _ <;> nlinarith

/-- Midpoints of whole units are multiples of a half, so the same of two whole numbers is the nearer. -/
theorem SameSide.abs_sub_le_iff {q s : ℝ} (h : SameSide q s) (A B : Int) :
    |(A : ℝ) - q| ≤ |(B : ℝ) - q| ↔ |(A : ℝ) - s| ≤ |(B : ℝ) - s| := by
  obtain ⟨hle, hge⟩ := h (A + B)
  push_cast at hle hge
  rcases lt_trichotomy A B with hlt | rfl | hlt
  · have hlt' : (A : ℝ) < B := by exact_mod_cast hlt
    rw [(abs_sub_le_abs_sub_iff_of_lt hlt').1, (abs_sub_le_abs_sub_iff_of_lt hlt').1, hle]
  · simp
  · have hlt' : (B : ℝ) < A := by exact_mod_cast hlt
    rw [(abs_sub_le_abs_sub_iff_of_lt hlt').2, (abs_sub_le_abs_sub_iff_of_lt hlt').2, add_comm, hge]

/-- The quotient that `roundRoot` rounds: the root of `m` units where it is half a whole number, else what stands for
it. -/
def rootQuotient (m : Nat) : Nat × Nat :=
  if isqrt (m * 2 ^ 151) * isqrt (m * 2 ^ 151) = m * 2 ^ 151 then (isqrt (m * 2 ^ 151), 2)
  else (2 * isqrt (m * 2 ^ 151) + 1, 4)

theorem roundRoot_eq (m : Nat) : roundRoot m = roundTo false (rootQuotient m).1 (rootQuotient m).2 := by
  unfold roundRoot rootQuotient
  dsimp only
  split <;> rfl

theorem rootQuotient_snd_pos (m : Nat) : 0 < (rootQuotient m).2 := by
  unfold rootQuotient
  split
  · exact two_pos
  · exact four_pos

/-- The quotient and the root lie between the same half units. -/
theorem sameSide_rootQuotient (m : Nat) :
    SameSide ((rootQuotient m).1 / (rootQuotient m).2) (√((m * 2 ^ 151 : Nat) : ℝ) / 2) := by
  obtain ⟨hlo, hhi⟩ := isqrt_spec (m * 2 ^ 151)
  unfold rootQuotient
  generalize m * 2 ^ 151 = N at *
  generalize isqrt N = r at *
  split
  next h =>
    rw [← h, Nat.cast_mul, Real.sqrt_mul_self (Nat.cast_nonneg r)]
    exact fun c => ⟨Iff.rfl, Iff.rfl⟩
  next h =>
    have hlt : (r : ℝ) < √(N : ℝ) := by
      rw [Real.lt_sqrt (Nat.cast_nonneg r), sq]
      exact_mod_cast lt_of_le_of_ne hlo h
    have hgt : √(N : ℝ) < r + 1 := by
      rw [Real.sqrt_lt' (by positivity), sq]
      exact_mod_cast hhi
    refine .of_between (r := r) ⟨?_, ?_⟩ ⟨?_, ?_⟩ <;> push_cast <;> linarith

/-! ## The rounded root -/

theorem units_lt {w : Word} (h : IsFinite w) : units w < 2 ^ 24 * 2 ^ 253 := by
  have hf := fracField_lt w
  unfold units
  split
  · omega
  · refine Nat.mul_lt_mul_of_lt_of_le (by omega) (Nat.pow_le_pow_right (by decide) ?_) (by positivity)
    unfold IsFinite at h
    omega

/-- The root of a finite value is far from overflow. -/
theorem roundedBits_rootQuotient_lt {m : Nat} (hm : m < 2 ^ 24 * 2 ^ 253) :
    roundedBits (rootQuotient m).1 (rootQuotient m).2 < 0x7F800000 := by
  have hr : isqrt (m * 2 ^ 151) < 2 ^ 24 * 2 ^ 253 := by
    by_contra hge
    have hmul : m * 2 ^ 151 < isqrt (m * 2 ^ 151) * isqrt (m * 2 ^ 151) :=
      Nat.mul_lt_mul'' (by omega) (by omega)
    exact absurd (isqrt_spec (m * 2 ^ 151)).1 (Nat.not_le.mpr hmul)
  rw [roundedBits_lt_iff _ (rootQuotient_snd_pos m)]
  unfold rootQuotient
  split
  · dsimp only
    omega
  · dsimp only
    omega

theorem abs_intUnits_sub_cast (w : Word) (n d : Nat) :
    |(intUnits w : ℝ) - n / d| = ((|(intUnits w : ℚ) - n / d| : ℚ) : ℝ) := by
  push_cast
  rfl

/-- `roundTo_nearest` in units, over the reals. -/
theorem roundTo_nearest_units {n d : Nat} (hd : 0 < d) (h : roundedBits n d < 0x7F800000) (z : Word) :
    |(intUnits (roundTo false n d) : ℝ) - n / d| ≤ |(intUnits z : ℝ) - n / d| ∧
      (|(intUnits z : ℝ) - n / d| ≤ |(intUnits (roundTo false n d) : ℝ) - n / d| →
        intUnits z = intUnits (roundTo false n d) ∨ (roundTo false n d).toNat % 2 = 0) := by
  obtain ⟨hle, htie⟩ := roundTo_nearest false hd h z
  have hpos : (0 : ℚ) < 2 ^ 149 := by positivity
  rw [abs_value_sub, abs_value_sub, div_le_div_iff_of_pos_right hpos] at hle
  rw [abs_value_sub, abs_value_sub, div_left_inj' hpos.ne', value_eq_iff] at htie
  simp only [signOf, Bool.false_eq_true, if_false, one_mul] at hle htie
  rw [abs_intUnits_sub_cast, abs_intUnits_sub_cast, Rat.cast_le, Rat.cast_le]
  exact ⟨hle, fun hge => htie (le_antisymm hge hle)⟩

theorem abs_value_sub_real (w : Word) (t : ℝ) :
    |(value w : ℝ) - t / 2 ^ 149| = |(intUnits w : ℝ) - t| / 2 ^ 149 := by
  rw [value_eq, Rat.cast_div, Rat.cast_intCast, Rat.cast_pow, Rat.cast_ofNat, ← sub_div, abs_div,
    abs_of_pos (by positivity : (0 : ℝ) < 2 ^ 149)]

/-- The root of a value, from the root in half units. -/
theorem sqrt_value {x : Word} (h : isNeg x = false) :
    √(value x : ℝ) = √((units x * 2 ^ 151 : Nat) : ℝ) / 2 / 2 ^ 149 := by
  have hv : (value x : ℝ) = ((units x * 2 ^ 151 : Nat) : ℝ) / (2 ^ 150) ^ 2 := by
    rw [value_eq, intUnits_eq, h]
    simp only [signOf, Bool.false_eq_true, if_false]
    push_cast
    ring
  rw [hv, Real.sqrt_div (Nat.cast_nonneg _), Real.sqrt_sq (by positivity)]
  ring

/-- The rounded root is the finite word nearest to the real root (R125). -/
theorem roundRoot_nearest {x : Word} (hx : IsFinite x) (hs : isNeg x = false) (z : Word) :
    |(value (roundRoot (units x)) : ℝ) - √(value x : ℝ)| ≤ |(value z : ℝ) - √(value x : ℝ)| ∧
      (|(value z : ℝ) - √(value x : ℝ)| = |(value (roundRoot (units x)) : ℝ) - √(value x : ℝ)| →
        value z = value (roundRoot (units x)) ∨ (roundRoot (units x)).toNat % 2 = 0) := by
  have hside := sameSide_rootQuotient (units x)
  obtain ⟨hle, htie⟩ := roundTo_nearest_units (rootQuotient_snd_pos (units x))
    (roundedBits_rootQuotient_lt (units_lt hx)) z
  rw [← roundRoot_eq, hside.abs_sub_le_iff] at hle htie
  have hpos : (0 : ℝ) < 2 ^ 149 := by positivity
  rw [sqrt_value hs, abs_value_sub_real, abs_value_sub_real, div_le_div_iff_of_pos_right hpos,
    div_left_inj' hpos.ne', value_eq_iff]
  exact ⟨hle, fun heq => htie heq.le⟩

/-! ## The square root -/

theorem fsqrt_of_isNaN {x : Word} (h : IsNaN x) : fsqrt x = nanCanon := by
  rw [fsqrt, unpack_of_isNaN h]

theorem value_neg_iff (x : Word) : value x < 0 ↔ isNeg x = true ∧ units x ≠ 0 := by
  rw [value_eq, div_lt_iff₀ (by positivity), zero_mul, Int.cast_lt_zero, intUnits_eq]
  cases isNeg x <;> simp [signOf, Nat.pos_iff_ne_zero]

theorem fsqrt_of_value_neg {x : Word} (hx : IsFinite x) (h : value x < 0) : fsqrt x = nanCanon := by
  obtain ⟨hs, hu⟩ := (value_neg_iff x).mp h
  rw [fsqrt, unpack_of_isFinite hx]
  simp only [hs, hu, if_false, if_true]

theorem fsqrt_of_value_pos {x : Word} (hx : IsFinite x) (h : 0 < value x) :
    isNeg x = false ∧ fsqrt x = roundRoot (units x) := by
  have hu : units x ≠ 0 := fun h0 => h.ne' ((value_eq_zero_iff x).mpr h0)
  have hs : isNeg x = false := by
    by_contra hne
    exact absurd ((value_neg_iff x).mpr ⟨by simpa using hne, hu⟩) h.le.not_gt
  rw [fsqrt, unpack_of_isFinite hx]
  simp only [hs, hu, if_false, Bool.false_eq_true, and_self]

/-- Settles O50: the classes of the operand, `roundRoot_nearest` for a positive word, and squares without a sign. -/
theorem squareRootIsCorrect : Obligations.SquareRootIsCorrect := by
  refine ⟨by decide, by decide, by decide, by decide, fun x => fsqrt_of_isNaN, fun x => fsqrt_of_value_neg,
    fun x hx hpos => ?_, fun x y => .inr (isNeg_fadd (isNeg_fmul_self x) (isNeg_fmul_self y))⟩
  obtain ⟨hs, hroot⟩ := fsqrt_of_value_pos hx hpos
  rw [hroot]
  refine ⟨?_, ?_, fun z _ => roundRoot_nearest hx hs z⟩
  · rw [roundRoot_eq]
    exact isFinite_roundTo (roundedBits_rootQuotient_lt (units_lt hx)) false
  · rw [roundRoot_eq, isNeg_roundTo]

end Sys2Proof.Machine

/-! SUPPORT and CERTIFICATES. The convolutions (R160 to R175): the class table by the general law, the stored word as
the weighted sum over the neighbours that exist, sums and products in either order, a uniform image under the Sobel
kernels. -/

namespace Sys2Proof.Machine

/-! ## How many neighbours exist -/

theorem length_existingSteps {extent x : Nat} (h : 2 ≤ extent) (hx : x < extent) :
    (existingSteps extent x).length = if x = 0 ∨ x = extent - 1 then 2 else 3 := by
  by_cases hfirst : x = 0
  · rw [if_pos (.inl hfirst), hfirst, existingSteps_first h]
    rfl
  · by_cases hlast : x + 1 = extent
    · rw [if_pos (.inr (by omega)), ← hlast, existingSteps_last (by omega)]
      rfl
    · rw [if_neg (by omega), existingSteps_middle (by omega) (by omega)]
      rfl

theorem length_existingTaps {w h r c : Nat} (hw : 2 ≤ w) (hh : 2 ≤ h) (hr : r < h) (hc : c < w) :
    (existingTaps w h r c).length =
      (if r = 0 ∨ r = h - 1 then 2 else 3) * (if c = 0 ∨ c = w - 1 then 2 else 3) := by
  rw [existingTaps_eq_pairs, ← length_existingSteps hh hr, ← length_existingSteps hw hc]
  simp only [List.length_flatMap, List.length_map, List.map_const', List.sum_replicate, smul_eq_mul]

/-- Settles O55: the class table is the general law, whose taps have their bounds and their number. -/
theorem tapsAreTheExistingNeighbours : Obligations.TapsAreTheExistingNeighbours := by
  intro w h r c hw hh hr hc
  rw [taps_classOf hw hh hr hc]
  exact ⟨rfl, fun t ht => ⟨neighbour_of_mem_existingTaps ht, tapIndex_lt ht⟩, length_existingTaps hw hh hr hc⟩

/-! ## The stored word -/

/-- The weighted sum of R164 is the machine's sum of the machine's products. -/
theorem weightedSum_eq_sumProducts (k : Vector Word 9) (px : Nat × Nat → Word) (l : List (Nat × Nat)) :
    weightedSum k px l = sumProducts (l.map fun t => fmul (kernelAt k t.1 t.2) (px t)) := by
  cases l with
  | nil => rfl
  | cons t ts =>
    rw [weightedSum, List.map_cons, sumProducts, List.foldl_map]
    rfl

/-- The product of a tap whose neighbour's word has a value. -/
theorem RunningCommand.tapProduct_ok {i : Instr} {s : State} {t : Nat × Nat} {v : Word} (h : RunningCommand i s)
    (h0 : .src0 ∈ usedSources i) (ht : t ∈ existingTapsHere s)
    (hr : readWord s.buf (s.snap.src0.toNat + tapIndex s t) = some v) :
    tapProduct s t = .ok (fmul (kernelAt s.snap.k t.1 t.2) v) := by
  rcases h.tapProduct_cases h0 ht with ⟨u, hu, hok⟩ | ⟨hnone, _⟩
  · obtain rfl : u = v := Option.some.inj (hu.symm.trans hr)
    exact hok
  · exact absurd (hnone.symm.trans hr) (Option.some_ne_none v).symm

/-- The pixel of a convolution whose existing neighbours' words `px` all have values; no other word matters. -/
theorem RunningCommand.convPixel_eq_weightedSum {i : Instr} {s : State} {px : Nat × Nat → Word}
    (h : RunningCommand i s) (h0 : .src0 ∈ usedSources i)
    (hpx : ∀ t ∈ existingTapsHere s, readWord s.buf (s.snap.src0.toNat + tapIndex s t) = some (px t)) :
    convPixel s = .word (weightedSum s.snap.k px (existingTapsHere s)) := by
  have hproducts := tapProducts_ok fun t ht => h.tapProduct_ok h0 ht (hpx t ht)
  rw [convPixel, h.tapsHere_eq, hproducts, weightedSum_eq_sumProducts]

/-- Settles O12: the four commands share one pixel function, which gives the weighted sum. -/
theorem convolutionPixelStep : Obligations.ConvolutionPixelStep := by
  intro i s px hi h w _ r c hpx
  obtain ⟨hfn, h0⟩ := pixelFn_conv hi
  refine h.exec_of_word ?_
  rw [hfn]
  exact h.convPixel_eq_weightedSum h0 hpx

/-! ## The order of the operands -/

theorem fadd_comm (x y : Word) : fadd x y = fadd y x := by
  by_cases hnan : IsNaN x ∨ IsNaN y
  · rw [fadd_of_isNaN hnan, fadd_of_isNaN hnan.symm]
  obtain ⟨hxnan, hynan⟩ := not_or.mp hnan
  rcases (class_cases x).resolve_left hxnan with hx | hx <;> rcases (class_cases y).resolve_left hynan with hy | hy
  case inl.inl =>
    simp only [fadd, unpack_of_isInf hx, unpack_of_isInf hy]
    by_cases hsign : isNeg x = isNeg y
    · rw [hsign]
    · rw [if_neg hsign, if_neg (Ne.symm hsign)]
  case inl.inr =>
    obtain ⟨hxy, hyx⟩ := fadd_of_isInf hx (.inl hy)
    exact hxy.trans hyx.symm
  case inr.inl =>
    obtain ⟨hyx, hxy⟩ := fadd_of_isInf hy (.inl hx)
    exact hxy.trans hyx.symm
  case inr.inr => rw [fadd_of_isFinite hx hy, fadd_of_isFinite hy hx, Bool.and_comm, add_comm]

theorem fmul_comm_of_isInf {x y : Word} (hx : IsInf x) (hy : ¬IsNaN y) : fmul x y = fmul y x := by
  by_cases hzero : IsFinite y ∧ value y = 0
  · obtain ⟨hxy, hyx⟩ := fmul_of_isInf_of_zero hx hzero.1 hzero.2
    exact hxy.trans hyx.symm
  · obtain ⟨hxy, hyx⟩ := fmul_of_isInf hx hy hzero
    exact hxy.trans hyx.symm

theorem fmul_comm (x y : Word) : fmul x y = fmul y x := by
  by_cases hnan : IsNaN x ∨ IsNaN y
  · rw [fmul_of_isNaN hnan, fmul_of_isNaN hnan.symm]
  obtain ⟨hxnan, hynan⟩ := not_or.mp hnan
  rcases (class_cases x).resolve_left hxnan with hx | hx
  · exact fmul_comm_of_isInf hx hynan
  rcases (class_cases y).resolve_left hynan with hy | hy
  · exact (fmul_comm_of_isInf hy hxnan).symm
  · rw [fmul_of_isFinite hx hy, fmul_of_isFinite hy hx, bne_comm, Nat.mul_comm]

/-- Settles O53: by the classes of the operands. -/
theorem sumAndProductCommute : Obligations.SumAndProductCommute := fun x y => ⟨fadd_comm x y, fmul_comm x y⟩

/-! ## A uniform image -/

/-- The nine products of a kernel with a uniform image of 0.5. -/
def halfProducts (k : Vector Word 9) : List Word :=
  (existingTaps 3 3 1 1).map fun t => fmul (kernelAt k t.1 t.2) 0x3F000000

theorem weightedSum_half (k : Vector Word 9) {px : Nat × Nat → Word} (h : ∀ t, px t = 0x3F000000) :
    weightedSum k px (existingTaps 3 3 1 1) = sumProducts (halfProducts k) := by
  obtain rfl : px = fun _ => 0x3F000000 := funext h
  exact weightedSum_eq_sumProducts k _ _

/-- The products -0.5, 0, 0.5, -1, 0, 1, -0.5, 0, 0.5: each row of the kernel cancels by itself. -/
theorem halfProducts_romSobelX : halfProducts romSobelX =
    [0xBF000000, 0x00000000, 0x3F000000, 0xBF800000, 0x00000000, 0x3F800000, 0xBF000000, 0x00000000, 0x3F000000] := by
  decide

/-- The products 0.5, 1, 0.5, 0, 0, 0, -0.5, -1, -0.5: the last row takes off what the first put on. -/
theorem halfProducts_romSobelY : halfProducts romSobelY =
    [0x3F000000, 0x3F800000, 0x3F000000, 0x00000000, 0x00000000, 0x00000000, 0xBF000000, 0xBF800000, 0xBF000000] := by
  decide

/-- Settles O57: the partial sums of either kernel's nine products are exact and end at +0. -/
theorem uniformHalfHasNoInteriorGradient : Obligations.UniformHalfHasNoInteriorGradient := by
  intro px hpx
  rw [weightedSum_half romSobelX hpx, weightedSum_half romSobelY hpx, halfProducts_romSobelX, halfProducts_romSobelY]
  decide

end Sys2Proof.Machine

/-! SUPPORT and CERTIFICATES. The pixels of RENORM, MAGF and MAGX (R190 to R195): the stored words, and the sign bit of
the two magnitudes. -/

namespace Sys2Proof.Machine

/-! ## The stored words -/

/-- The pixel of RENORM whose source word has a value. -/
theorem RunningCommand.renormPixel_ok {s : State} {v : Word} (h : RunningCommand .renorm s)
    (hr : readWord s.buf (s.snap.src0.toNat + s.idx.toNat) = some v) : renormPixel s = .word (renormWord v) := by
  have he : pixelWord s .src0 = .ok v := h.pixelWord_ok (by decide) hr
  rw [renormPixel, he]

/-- The pixel of two source words that have values, whatever `f` makes of them. -/
theorem RunningCommand.pairPixel_ok {i : Instr} {s : State} {sx sy : Word} (h : RunningCommand i s)
    (h0 : .src0 ∈ usedSources i) (h1 : .src1 ∈ usedSources i)
    (hr0 : readWord s.buf (s.snap.src0.toNat + s.idx.toNat) = some sx)
    (hr1 : readWord s.buf (s.snap.src1.toNat + s.idx.toNat) = some sy) (f : Word → Word → Word) :
    pairPixel f s = .word (f sx sy) := by
  have he0 : pixelWord s .src0 = .ok sx := h.pixelWord_ok h0 hr0
  have he1 : pixelWord s .src1 = .ok sy := h.pixelWord_ok h1 hr1
  rw [pairPixel, he0, he1]

/-- Settles O9: the pixel is `renormWord` of the source word, and the endpoint values are computed. -/
theorem renormPixelStep : Obligations.RenormPixelStep :=
  ⟨fun _ _ h hr => h.exec_of_word (h.renormPixel_ok hr), by decide, by decide⟩

/-- Settles O10: MAGF stores `magfWord` of the two gradients. -/
theorem magfPixelStep : Obligations.MagfPixelStep :=
  fun _ _ _ h hr0 hr1 => h.exec_of_word (h.pairPixel_ok (by decide) (by decide) hr0 hr1 magfWord)

/-- Settles O11: MAGX stores `magxWord` of the two gradients. -/
theorem magxPixelStep : Obligations.MagxPixelStep :=
  fun _ _ _ h hr0 hr1 => h.exec_of_word (h.pairPixel_ok (by decide) (by decide) hr0 hr1 magxWord)

/-! ## The sign of a magnitude -/

theorem isNeg_nanCanon : isNeg nanCanon = false := by decide

theorem isNeg_infinity (neg : Bool) : isNeg (infinity neg) = neg := by
  rw [infinity, isNeg_signed neg (by omega)]

theorem isNeg_roundRoot (m : Nat) : isNeg (roundRoot m) = false := by
  rw [roundRoot_eq, isNeg_roundTo]

/-- A root has a sign only where its operand is -0 (R125). -/
theorem isNeg_fsqrt {x : Word} (h : isNeg x = false) : isNeg (fsqrt x) = false := by
  rcases class_cases x with hx | hx | hx
  · rw [fsqrt_of_isNaN hx, isNeg_nanCanon]
  · simp only [fsqrt, unpack_of_isInf hx, h, Bool.false_eq_true, if_false, isNeg_infinity]
  · simp only [fsqrt, unpack_of_isFinite hx, h, Bool.false_eq_true, if_false]
    split
    · rw [isNeg_signed false (by decide)]
    · exact isNeg_roundRoot (units x)

/-- A quotient of words without a sign has none (R124). -/
theorem isNeg_fdiv {x y : Word} (hx : isNeg x = false) (hy : isNeg y = false) : isNeg (fdiv x y) = false := by
  by_cases hnan : IsNaN x ∨ IsNaN y
  · rw [fdiv_of_isNaN hnan, isNeg_nanCanon]
  obtain ⟨hxnan, hynan⟩ := not_or.mp hnan
  rcases (class_cases x).resolve_left hxnan with hcx | hcx <;> rcases (class_cases y).resolve_left hynan with hcy | hcy
  case inl.inl => rw [fdiv_of_isInf hcx hcy, isNeg_nanCanon]
  case inl.inr => rw [fdiv_of_isInf_of_isFinite hcx hcy, isNeg_infinity, hx, hy, bne_self_eq_false]
  case inr.inl => rw [fdiv_of_isFinite_of_isInf hcx hcy, isNeg_signed _ (by decide), hx, hy, bne_self_eq_false]
  case inr.inr =>
    rw [fdiv_of_isFinite hcx hcy, hx, hy, bne_self_eq_false]
    split
    · split
      · exact isNeg_nanCanon
      · exact isNeg_infinity false
    · exact isNeg_roundTo false _ _

/-- What both magnitudes are: the root of a sum of two squares over a positive word. A square has no sign whatever its
operand's, so the operand of the root is never -0. -/
theorem isNeg_root_sum_squares_div (x y : Word) {c : Word} (hc : isNeg c = false) :
    isNeg (fdiv (fsqrt (fadd (fmul x x) (fmul y y))) c) = false :=
  isNeg_fdiv (isNeg_fsqrt (isNeg_fadd (isNeg_fmul_self x) (isNeg_fmul_self y))) hc

/-- Settles O54: of the gradients for MAGF, of the re-centred gradients for MAGX. -/
theorem magnitudesAreNeverNegative : Obligations.MagnitudesAreNeverNegative := fun sx sy =>
  ⟨isNeg_root_sum_squares_div sx sy (by decide),
    isNeg_root_sum_squares_div (fsub sx cHalf) (fsub sy cHalf) (by decide)⟩

end Sys2Proof.Machine

/-! CERTIFICATES. NMS (R210 to R219): the buckets by their bounds, the copied rows, the keep test, the two pixels whose
neighbour is outside the image, and what can be stored. -/

namespace Sys2Proof.Machine

/-! ## The buckets -/

/-- The interval of ratios of a bucket, by the thresholds T_LO and T_HI (R213). -/
def Bucket.Bounds (lo hi : ℚ) : Bucket → ℚ → Prop
  | .z, a => -lo < a ∧ a < lo
  | .p, a => lo ≤ a ∧ a < hi
  | .n, a => -hi < a ∧ a ≤ -lo
  | .h, a => hi ≤ a ∨ a ≤ -hi

/-- The interval a ratio lies in, tested in the order of R213. -/
def bucketIn (lo hi a : ℚ) : Bucket :=
  if -lo < a ∧ a < lo then .z
  else if lo ≤ a ∧ a < hi then .p
  else if a ≤ -lo ∧ -hi < a then .n
  else .h

/-- The tests of R213 in order find an interval that holds the ratio. -/
theorem bounds_bucketIn (lo hi a : ℚ) : (bucketIn lo hi a).Bounds lo hi a := by
  unfold bucketIn
  split_ifs with hz hp hn
  · exact hz
  · exact hp
  · exact hn.symm
  · grind [Bucket.Bounds]

/-- With the thresholds in order the intervals are disjoint: a ratio inside one fails every test before it. -/
theorem bucketIn_of_bounds {lo hi a : ℚ} (hlo : 0 < lo) (hhi : lo < hi) {b : Bucket} (hb : b.Bounds lo hi a) :
    bucketIn lo hi a = b := by
  cases b with
  | z => exact if_pos hb
  | p =>
    have hz : ¬(-lo < a ∧ a < lo) := fun hz => absurd hb.1 (not_le.mpr hz.2)
    rw [bucketIn, if_neg hz]
    exact if_pos hb
  | n =>
    have hz : ¬(-lo < a ∧ a < lo) := fun hz => absurd hb.2 (not_le.mpr hz.1)
    have hp : ¬(lo ≤ a ∧ a < hi) := fun hp => by linarith [hb.2, hp.1]
    rw [bucketIn, if_neg hz, if_neg hp, if_pos hb.symm]
  | h =>
    have hz : ¬(-lo < a ∧ a < lo) := fun hz => by rcases hb with hb | hb <;> linarith [hz.1, hz.2]
    have hp : ¬(lo ≤ a ∧ a < hi) := fun hp => by rcases hb with hb | hb <;> linarith [hp.1, hp.2]
    have hn : ¬(a ≤ -lo ∧ -hi < a) := fun hn => by rcases hb with hb | hb <;> linarith [hn.1, hn.2]
    rw [bucketIn, if_neg hz, if_neg hp, if_neg hn]

theorem bucketIn_eq_iff {lo hi a : ℚ} (hlo : 0 < lo) (hhi : lo < hi) (b : Bucket) :
    bucketIn lo hi a = b ↔ b.Bounds lo hi a :=
  ⟨fun h => h ▸ bounds_bucketIn lo hi a, bucketIn_of_bounds hlo hhi⟩

theorem value_of_intUnits_eq_neg {x y : Word} (h : intUnits x = -intUnits y) : value x = -value y := by
  rw [value_eq, value_eq, h, Int.cast_neg, neg_div]

theorem value_negTLo : value negTLo = -value tLo := value_of_intUnits_eq_neg (by decide)

theorem value_negTHi : value negTHi = -value tHi := value_of_intUnits_eq_neg (by decide)

theorem value_tLo_pos : 0 < value tLo := by
  have hunits : 0 < intUnits tLo := by decide
  rw [value_eq]
  positivity

theorem value_tLo_lt_tHi : value tLo < value tHi := by
  rw [value_lt_iff]
  decide

/-- The bucket of a finite ratio is the interval its value lies in (R126, R213). -/
theorem bucketOf_of_isFinite {ang : Word} (h : IsFinite ang) :
    bucketOf ang = bucketIn (value tLo) (value tHi) (value ang) := by
  have hlo : IsFinite tLo := by unfold IsFinite; decide
  have hhi : IsFinite tHi := by unfold IsFinite; decide
  have hnlo : IsFinite negTLo := by unfold IsFinite; decide
  have hnhi : IsFinite negTHi := by unfold IsFinite; decide
  simp only [bucketOf, fgt, fge, flt_of_isFinite h hlo, flt_of_isFinite h hhi, flt_of_isFinite hnlo h,
    flt_of_isFinite hnhi h, fle_of_isFinite hlo h, fle_of_isFinite h hnlo, value_negTLo, value_negTHi,
    Bool.and_eq_true, decide_eq_true_eq, bucketIn]

theorem bucketOf_of_isNaN {ang : Word} (h : IsNaN ang) : bucketOf ang = .h := by
  simp only [bucketOf, fgt, fge, flt_of_isNaN (.inl h), flt_of_isNaN (.inr h), fle_of_isNaN (.inl h),
    fle_of_isNaN (.inr h), Bool.false_and, Bool.false_eq_true, if_false]

theorem bucketOf_of_isInf {ang : Word} (h : IsInf ang) : bucketOf ang = .h := by
  rw [eq_infinity_of_isInf h]
  cases isNeg ang
  · decide
  · decide

/-- Settles O56: the chain of R213 finds the one interval that holds a finite ratio; NaN fails every test, and each
infinity is computed. -/
theorem bucketsByBounds : Obligations.BucketsByBounds := by
  constructor
  · rintro ang (hnan | hinf)
    · exact bucketOf_of_isNaN hnan
    · exact bucketOf_of_isInf hinf
  · intro ang hfin
    rw [bucketOf_of_isFinite hfin]
    have hiff := bucketIn_eq_iff (a := value ang) value_tLo_pos value_tLo_lt_tHi
    exact ⟨hiff .z, hiff .p, hiff .n, hiff .h⟩

/-! ## The stored words -/

/-- The pixel of a border row whose magnitude word has a value; no other word is read (R211). -/
theorem RunningCommand.nmsPixel_border_ok {s : State} {m : Word} (h : RunningCommand .nms s)
    (hb : isBorderRow s.snap.w.toNat s.snap.n.toNat s.idx.toNat = true)
    (hr : readWord s.buf (s.snap.src2.toNat + s.idx.toNat) = some m) : nmsPixel s = .word m := by
  have he : pixelWord s .src2 = .ok m := h.pixelWord_ok (by decide) hr
  rw [nmsPixel, if_pos hb, he, pixelOf]

/-- Settles O13: the first and the last row are the border rows. -/
theorem nmsBorderRowsAreCopied : Obligations.NmsBorderRowsAreCopied :=
  fun _ _ h hrow hr => h.exec_of_word (h.nmsPixel_border_ok (h.isBorderRow_iff_row.mpr hrow) hr)

/-- The comparison with two pixels of the image whose words have values (R217). -/
theorem RunningCommand.nmsKeep_ok {s : State} {m ma mb : Word} {ja jb : Nat} (h : RunningCommand .nms s)
    (ha : ja < s.snap.n.toNat) (hb : jb < s.snap.n.toNat)
    (hr : readWord s.buf (s.snap.src2.toNat + s.idx.toNat) = some m)
    (hra : readWord s.buf (s.snap.src2.toNat + ja) = some ma)
    (hrb : readWord s.buf (s.snap.src2.toNat + jb) = some mb) : nmsKeep s ja jb = .word (keepWord m ma mb) := by
  have h2 : .src2 ∈ usedSources .nms := by decide
  have he : pixelWord s .src2 = .ok m := h.pixelWord_ok h2 hr
  have hea : engineRead s (s.snap.src2.toNat + (ja : Int)) = .ok ma := h.engineRead_source h2 ha hra
  have heb : engineRead s (s.snap.src2.toNat + (jb : Int)) = .ok mb := h.engineRead_source h2 hb hrb
  rw [nmsKeep, he, hea, heb]

theorem keepWord_eq (m ma mb : Word) :
    keepWord m ma mb = if fge m ma = true ∧ fge m mb = true then m else 0x00000000 := by
  simp only [keepWord, Bool.and_eq_true, plusZero]

theorem keepWord_eq_or (m ma mb : Word) : keepWord m ma mb = m ∨ keepWord m ma mb = 0x00000000 := by
  rw [keepWord_eq]
  exact ite_eq_or_eq _ _ _

/-- Settles O14: with every word defined and both neighbours in the image, the pixel is the keep test. -/
theorem nmsInnerRowsAreSuppressed : Obligations.NmsInnerRowsAreSuppressed := by
  intro s sx sy m ma mb ja jb h hlo hhi hr0 hr1 hja hjb ha hb hr hra hrb
  rw [← keepWord_eq]
  refine h.exec_of_word ?_
  calc nmsPixel s
      = nmsKeep s ja jb := h.nmsPixel_eq_nmsKeep (h.isBorderRow_of_inner hlo hhi) hr0 hr1 hja hjb ha hb
    _ = .word (keepWord m ma mb) := h.nmsKeep_ok ha hb hr hra hrb

/-- A word that NMS's pixel gives is the pixel's magnitude word or +0 (R211, R217). -/
theorem RunningCommand.nmsPixel_word {s : State} {v : Word} (h : RunningCommand .nms s) (hv : nmsPixel s = .word v) :
    readWord s.buf (s.snap.src2.toNat + s.idx.toNat) = some v ∨ v = 0x00000000 := by
  have no_stop {addrs : List Nat} : ¬StopsAt s addrs (.word v) := by
    rintro ⟨_, _, _, hstop⟩
    cases hstop
  cases hb : isBorderRow s.snap.w.toNat s.snap.n.toNat s.idx.toNat with
  | true =>
    have hcases := h.nmsPixel_border_cases hb
    rw [hv] at hcases
    obtain ⟨m, hr, hm⟩ := hcases.resolve_left no_stop
    cases hm
    exact .inl hr
  | false =>
    have hcases := h.nmsPixel_inner_cases hb
    rw [hv] at hcases
    obtain ⟨sx, sy, _, _, hcompare⟩ := hcases.resolve_left no_stop
    rcases nmsCompare_cases s (nmsNeighbours s.snap.w.toNat s.idx.toNat (bucketOf (nmsRatio sx sy))) with
      hoob | ⟨ja, jb, hj, hja, hjb⟩
    · rw [hoob] at hcompare
      cases hcompare
    · have hkeep := h.nmsKeep_cases hja hjb
      rw [← nmsCompare_inside hja hjb, ← hj, ← hcompare] at hkeep
      obtain ⟨m, ma, mb, hr, _, _, hm⟩ := hkeep.resolve_left no_stop
      cases hm
      rcases keepWord_eq_or m ma mb with heq | heq
      · exact .inl (by rw [heq, hr])
      · exact .inr heq

/-- Settles O16: a step that does not fault stores the pixel's word. -/
theorem nmsOutputIsMagnitudeOrZero : Obligations.NmsOutputIsMagnitudeOrZero := by
  intro s t h he hst
  rcases h.exec_next_cases he with ⟨v, hv, rfl⟩ | ⟨_, _, rfl⟩
  · rw [commitPixel_buf, readWord_writeWord_self]
    exact (h.nmsPixel_word hv).imp Eq.symm (congrArg some)
  · exact absurd rfl hst

/-! ## The neighbour outside the image -/

theorem nmsKeep_ne_nmsOob (s : State) (ja jb : Int) : nmsKeep s ja jb ≠ .nmsOob := by
  unfold nmsKeep
  split
  · simp
  · split
    · simp
    · split <;> simp

/-- The comparison is F_NMS_OOB exactly when a neighbour is outside the image (R216). -/
theorem nmsCompare_eq_nmsOob_iff (s : State) (js : Int × Int) :
    nmsCompare s js = .nmsOob ↔
      outside s.snap.n.toNat js.1 = true ∨ outside s.snap.n.toNat js.2 = true := by
  rw [nmsCompare, ite_eq_left_iff, ← Bool.or_eq_true]
  exact ⟨fun h => by_contra fun hin => nmsKeep_ne_nmsOob s _ _ (h hin), fun hout hin => absurd hout hin⟩

/-- Of the pixels of the inner rows only the first and the last have a neighbour outside the image, both in bucket N
(R214, R216). -/
theorem outside_nmsNeighbours_iff {w n i : Nat} (hw : 2 ≤ w) (hi : isBorderRow w n i = false) (b : Bucket) :
    outside n (nmsNeighbours w i b).1 = true ∨ outside n (nmsNeighbours w i b).2 = true ↔
      b = .n ∧ (i = w ∨ i = n - w - 1) := by
  rw [Bool.eq_false_iff, ne_eq, isBorderRow_iff] at hi
  rw [outside_iff, outside_iff]
  cases b
  case n =>
    simp only [nmsNeighbours, nmsOffsets, true_and]
    omega
  all_goals
    simp only [nmsNeighbours, nmsOffsets, reduceCtorEq, false_and, iff_false]
    omega

/-- A running NMS takes its fault exactly when its pixel is F_NMS_OOB: a pixel that is stored leaves no fault. -/
theorem RunningCommand.exec_nms_eq_raise_iff {s : State} (h : RunningCommand .nms s) :
    exec .nms s = .next (raise .nmsOob s.idx s) ↔ nmsPixel s = .nmsOob := by
  constructor
  · intro he
    rcases h.exec_next_cases he with ⟨v, _, ht⟩ | ⟨_, hoob, _⟩
    · exact absurd (congrArg State.st ht.symm) (commitPixel_not_faulted h.busy v)
    · exact hoob
  · intro hoob
    rw [exec_busy h.busy h.latched_eq, engineStep, show pixelFn .nms s = .nmsOob from hoob]

/-- The pixel of an inner row whose gradients have values (R212 to R216). -/
theorem RunningCommand.nmsPixel_inner_ok {s : State} {sx sy : Word} (h : RunningCommand .nms s)
    (hb : isBorderRow s.snap.w.toNat s.snap.n.toNat s.idx.toNat = false)
    (hr0 : readWord s.buf (s.snap.src0.toNat + s.idx.toNat) = some sx)
    (hr1 : readWord s.buf (s.snap.src1.toNat + s.idx.toNat) = some sy) :
    nmsPixel s = nmsCompare s (nmsNeighbours s.snap.w.toNat s.idx.toNat (bucketOf (nmsRatio sx sy))) := by
  have he0 : pixelWord s .src0 = .ok sx := h.pixelWord_ok (by decide) hr0
  have he1 : pixelWord s .src1 = .ok sy := h.pixelWord_ok (by decide) hr1
  rw [nmsPixel, if_neg (Bool.eq_false_iff.mp hb), he0, he1]

/-- Settles O15: the fault is a pixel F_NMS_OOB, that is a neighbour outside the image, that is one of the two pixels in
bucket N. -/
theorem nmsNeighbourOutsideFaults : Obligations.NmsNeighbourOutsideFaults := by
  intro s sx sy h hlo hhi hr0 hr1
  have hb := h.isBorderRow_of_inner hlo hhi
  refine h.exec_nms_eq_raise_iff.trans ?_
  rw [h.nmsPixel_inner_ok hb hr0 hr1, nmsCompare_eq_nmsOob_iff]
  exact outside_nmsNeighbours_iff h.width_two hb (bucketOf (nmsRatio sx sy))

end Sys2Proof.Machine

/-! CERTIFICATES. The EDGE pipelines (R241): the wait between two commands of an expansion, which ends it on a fault. -/

namespace Sys2Proof.Machine

/-! ## Leaving out the rest of an expansion -/

/-- In FAULTED the host sees STATUS.FAULT = 1 and drops the rest of the expansion (R241). -/
theorem stopOnFault_of_faulted (n : Nat) {s : State} (h : s.st = .faulted) :
    stopOnFault n s = { s with script := s.script.drop n } :=
  if_pos ((faultFlag_eq_decide s).trans (decide_eq_true h))

/-- Outside FAULTED the host sees STATUS.FAULT = 0 and goes on (R241). -/
theorem stopOnFault_of_not_faulted (n : Nat) {s : State} (h : s.st ≠ .faulted) : stopOnFault n s = s :=
  if_neg (Bool.eq_false_iff.mp ((faultFlag_eq_decide s).trans (decide_eq_false h)))

/-! ## The wait inside an expansion -/

/-- The wait stays at the head of the script while BUSY = 1 (R96). -/
theorem runStmt_waitOrStop_of_busy (n : Nat) {s : State} (h : s.st = .busy) :
    runStmt (.waitOrStop n) s =
      .next { note (.value (statusWord s)) s with script := .waitOrStop n :: s.script } :=
  congrArg Host.Outcome.next (poll_of_busy _ _ h)

/-- A wait that ends in FAULTED takes the rest of the expansion with it (R241). -/
theorem runStmt_waitOrStop_of_faulted (n : Nat) {s : State} (h : s.st = .faulted) :
    runStmt (.waitOrStop n) s = .next { note (.value (statusWord s)) s with script := s.script.drop n } := by
  have hended : s.st ≠ .busy := by simp [h]
  rw [runStmt, poll_of_not_busy _ _ hended, stopOnFault_of_faulted n (s := note _ s) h]
  rfl

/-- A wait that ends in IDLE only notes STATUS (R241). -/
theorem runStmt_waitOrStop_of_idle (n : Nat) {s : State} (h : s.st = .idle) :
    runStmt (.waitOrStop n) s = .next (note (.value (statusWord s)) s) := by
  have hended : s.st ≠ .busy := by simp [h]
  have hok : s.st ≠ .faulted := by simp [h]
  rw [runStmt, poll_of_not_busy _ _ hended, stopOnFault_of_not_faulted n (s := note _ s) hok]

/-- Settles O44: the host's turn runs the wait, whose effect each of the three modes fixes; the wait a busy CORE leaves
is the script there was before the turn. -/
theorem pipelineStopsOnFault : Obligations.PipelineStopsOnFault := by
  intro s n rest ha hs
  rw [step_of_hostTurn ha hs]
  refine ⟨fun hfaulted => ?_, fun hidle => ?_, fun hbusy => ?_⟩
  · exact runStmt_waitOrStop_of_faulted n hfaulted
  · exact runStmt_waitOrStop_of_idle n hidle
  · exact hs ▸ runStmt_waitOrStop_of_busy n hbusy

end Sys2Proof.Machine

/-! SUPPORT and CERTIFICATES. Issue: the first check that fails names its fault (R262 to R264, R266), a legal issue
launches (R272), and neither touches more than R267 and R272 say. -/

namespace Sys2Proof.Machine

/-! ## Which check fails -/

/-- The checks read operand registers only, and an accepted write of CMD sets none. -/
theorem issueCheck_acceptCommand (i : Instr) (w : Word) (s : State) :
    issueCheck i (acceptCommand w s) = issueCheck i s := rfl

/-- The first check (R262). -/
theorem issueCheck_of_small (i : Instr) {s : State} (h : s.width.toNat < 2 ∨ s.height.toNat < 2) :
    issueCheck i s = some (.dim, dimInfo s) :=
  if_pos h

/-- The used buffers in the order of R263, each with the number FINFO records for it. -/
def usedBuffers (i : Instr) (s : State) : List (Word × Word) :=
  (usedSources i).map (fun k => (k.number, srcReg s k)) ++ [(3, s.dst)]

/-- The second check, past the first, reports the first used buffer that leaves BUF (R263). -/
theorem issueCheck_of_outside {i : Instr} {s : State} {b : Word × Word} (hw : 2 ≤ s.width.toNat)
    (hh : 2 ≤ s.height.toNat)
    (hfirst : (usedBuffers i s).find? (fun c => !inBuf s.bufWords c.2.toNat (s.width.toNat * s.height.toNat)) = some b) :
    issueCheck i s = some (.range, b.1) := by
  have hdim : ¬(s.width.toNat < 2 ∨ s.height.toNat < 2) := by omega
  rw [usedBuffers, List.find?_append, List.find?_map] at hfirst
  cases hsrc : (usedSources i).find?
      (fun k => !inBuf s.bufWords (srcReg s k).toNat (s.width.toNat * s.height.toNat)) with
  | some k =>
    simp only [Function.comp_def, hsrc, Option.map_some, Option.some_or, Option.some.injEq] at hfirst
    simp only [issueCheck, hdim, if_false, hsrc, ← hfirst]
  | none =>
    simp only [Function.comp_def, hsrc, Option.map_none, Option.none_or] at hfirst
    obtain rfl : b = (3, s.dst) := List.mem_singleton.mp (List.mem_of_find?_eq_some hfirst)
    have hdst := List.find?_some hfirst
    simp only [Bool.not_eq_true'] at hdst
    simp only [issueCheck, hdim, if_false, hsrc, hdst, Bool.false_eq_true]

/-- The third check, past the others, reports the first used source that overlaps the destination (R264). -/
theorem issueCheck_of_overlap {i : Instr} {s : State} {k : Src} (hw : 2 ≤ s.width.toNat) (hh : 2 ≤ s.height.toNat)
    (hsrc : ∀ j ∈ usedSources i, (srcReg s j).toNat + s.width.toNat * s.height.toNat ≤ s.bufWords)
    (hdst : s.dst.toNat + s.width.toNat * s.height.toNat ≤ s.bufWords)
    (hfirst : (usedSources i).find?
      (fun j => overlaps (srcReg s j).toNat s.dst.toNat (s.width.toNat * s.height.toNat)) = some k) :
    issueCheck i s = some (.overlap, k.number) := by
  have hdim : ¬(s.width.toNat < 2 ∨ s.height.toNat < 2) := by omega
  have hinside : (usedSources i).find?
      (fun j => !inBuf s.bufWords (srcReg s j).toNat (s.width.toNat * s.height.toNat)) = none := by
    rw [List.find?_eq_none]
    intro j hj
    simpa [inBuf] using hsrc j hj
  simp only [issueCheck, hdim, if_false, hinside, (inBuf_iff _ _ _).mpr hdst, if_true, hfirst]

/-- `Overlap` of R68 is a word in both ranges. -/
theorem overlaps_iff_exists_inRange (b1 b2 n : Nat) :
    overlaps b1 b2 n = true ↔ ∃ a, inRange b1 n a = true ∧ inRange b2 n a = true := by
  simp only [overlaps_iff, inRange_iff]
  constructor
  · intro h
    exact ⟨max b1 b2, by omega, by omega⟩
  · rintro ⟨a, h1, h2⟩
    omega

/-- FINFO of F_DIM as a number (R262). -/
theorem dimInfo_eq_ofNat (s : State) : dimInfo s = BitVec.ofNat 32 (s.height.toNat * 65536 + s.width.toNat) := by
  apply BitVec.eq_of_toNat_eq
  have hw := s.width.isLt
  have hh := s.height.isLt
  rw [dimInfo, BitVec.toNat_append, Nat.shiftLeft_eq, Nat.mul_comm, ← Nat.two_pow_add_eq_or_of_lt hw,
    BitVec.toNat_ofNat]
  omega

/-! ## What the issue does -/

/-- An issue with a failing check takes that check's fault (R266, R267, R272). -/
theorem exec_of_issueCheck {i : Instr} {s : State} {f : CoreFault} {info : Word} (hidle : s.st = .idle)
    (hcheck : issueCheck i s = some (f, info)) :
    exec i s = .next { s with cmd := encode i, done := false, st := .faulted, fcode := f.code, finfo := info } := by
  rw [exec_idle hidle, issue, issueCheck_acceptCommand, hcheck]
  rfl

/-- An issue on legal operands launches (R272). -/
theorem exec_of_operandsLegal {i : Instr} {s : State} (hidle : s.st = .idle) (hlegal : OperandsLegal i s) :
    exec i s = .next (launch i (acceptCommand (encode i) s)) := by
  rw [exec_idle hidle, issue, issueCheck_acceptCommand, (issueCheck_eq_none_iff i s).mpr hlegal]

/-- Settles O4: the launch, its L_OP and L_KSEL as fields of the command word, its kernel by the command. -/
theorem legalIssueLaunches : Obligations.LegalIssueLaunches := by
  intro i s hidle hlegal
  obtain ⟨hop, hksel⟩ := fieldsOf_eq_extract i
  rw [exec_of_operandsLegal hidle hlegal, ← hop, ← hksel]
  cases i <;> rfl

/-- Settles O5: the first check fails. -/
theorem smallDimensionsFault : Obligations.SmallDimensionsFault := by
  intro i s hidle hsmall
  rw [exec_of_issueCheck hidle (issueCheck_of_small i hsmall), dimInfo_eq_ofNat]
  rfl

/-- Settles O6: the list is `usedBuffers`, and the one reported is the first in it that fails `inBuf`. -/
theorem bufferOutsideBufFaults : Obligations.BufferOutsideBufFaults := by
  intro i s before after number base hidle hw hh hsplit hbefore hout
  refine exec_of_issueCheck hidle (issueCheck_of_outside (b := (number, base)) hw hh ?_)
  rw [List.find?_eq_some_iff_append]
  refine ⟨?_, before, after, hsplit, ?_⟩
  · simpa [inBuf] using hout
  · intro b hb
    simpa [inBuf] using hbefore b hb

/-- Settles O7: a common word is `overlaps`, and the one reported is the first source that has one. -/
theorem destinationOverlapFaults : Obligations.DestinationOverlapFaults := by
  intro i s before after k hidle hw hh hsrc hdst hsplit hbefore hshared
  refine exec_of_issueCheck hidle (issueCheck_of_overlap hw hh hsrc hdst ?_)
  rw [List.find?_eq_some_iff_append]
  refine ⟨(overlaps_iff_exists_inRange _ _ _).mpr hshared, before, after, hsplit, ?_⟩
  intro j hj
  rw [Bool.not_eq_true', Bool.eq_false_iff, ne_eq, overlaps_iff_exists_inRange, not_exists]
  exact hbefore j hj

/-- Settles O8: fault entry and launch, after the accepted write of CMD, are the two ways an issue ends. -/
theorem issueFrame : Obligations.IssueFrame := by
  intro i s t hidle hexec
  rw [exec_idle hidle] at hexec
  cases hexec
  rcases issue_cases i s with ⟨f, info, hcheck, he⟩ | ⟨_, he⟩
  · rw [he]
    exact ⟨fun _ => rfl, rfl, rfl, rfl, rfl, rfl, rfl, rfl, rfl, rfl, rfl, rfl, rfl, rfl, rfl, rfl, rfl,
      .inr ⟨rfl, rfl, rfl, issueCheck_code hcheck⟩⟩
  · rw [he]
    exact ⟨fun _ => rfl, rfl, rfl, rfl, rfl, rfl, rfl, rfl, rfl, rfl, rfl, rfl, rfl, rfl, rfl, rfl, rfl,
      .inl ⟨rfl, rfl, rfl, rfl⟩⟩

end Sys2Proof.Machine

/-! SUPPORT and CERTIFICATES. FAULTED: how a step gets there and what it leaves alone (R267, R268), and the resets as
the only way out (R269). Both by the moves of `CoreMove`. -/

namespace Sys2Proof.Machine

/-! ## Leaving FAULTED -/

/-- `t` has the fields of `s` that a fault freezes (R269). -/
structure KeepsFault (s t : State) : Prop where
  st : t.st = s.st
  fcode : t.fcode = s.fcode
  finfo : t.finfo = s.finfo
  idx : t.idx = s.idx
  snap : t.snap = s.snap
  cmd : t.cmd = s.cmd

theorem HostOnly.keepsFault {s t : State} (h : HostOnly s t) : KeepsFault s t := by
  obtain ⟨_, _, _, rfl⟩ := h
  exact ⟨rfl, rfl, rfl, rfl, rfl, rfl⟩

theorem KeepsProgress.keepsFault {s t : State} (h : KeepsProgress s t) (hcmd : t.cmd = s.cmd) : KeepsFault s t :=
  ⟨h.st, h.fcode, h.finfo, h.idx, h.snap, hcmd⟩

/-- `op` is one of the host's two resets (R301, R302). -/
def IsReset (op : Stmt) : Prop := op = .hardwareReset ∨ ∃ v, op = .writeReg 32 0x04 v ∧ v.getLsbD 0 = true

/-- Of the registers other than CMD only CTRL, by a soft reset, reaches CMD when written. -/
theorem regWrite_cmd {r : Reg} {v : Word} (h : ¬(r = .ctrl ∧ v.getLsbD 0 = true)) (s : State) :
    (regWrite r v s).cmd = s.cmd := by
  cases r with
  | ctrl =>
    have hv : v.getLsbD 0 = false := Bool.eq_false_iff.mpr fun hv => h ⟨rfl, hv⟩
    rw [regWrite, writeCtrl_of_not_bit0 hv]
  | _ => rfl

theorem keepsFault_regWrite {r : Reg} {v : Word} (h : ¬(r = .ctrl ∧ v.getLsbD 0 = true)) (s : State) :
    KeepsFault s (regWrite r v s) :=
  ((regWrite_cases r v s).resolve_left fun ⟨hr, hv, _⟩ => h ⟨hr, hv⟩).keepsFault (regWrite_cmd h s)

/-- In FAULTED every move keeps what the fault froze, or is a reset (R269). -/
theorem keepsFault_or_reset_of_coreMove {u t : State} {a : Agent} {script : List Stmt} (m : CoreMove u a script t)
    (hst : u.st = .faulted) :
    KeepsFault u t ∨
      (t.st = .idle ∧ t.fcode = 0 ∧ t.finfo = 0 ∧ a = .host ∧ ∃ op rest, script = op :: rest ∧ IsReset op) := by
  have hnot_idle : u.st ≠ .idle := by simp [hst]
  have hnot_busy : u.st ≠ .busy := by simp [hst]
  cases m with
  | quiet same => exact .inl same.keepsFault
  | @writeReg r v rest _ =>
    by_cases hreset : r = .ctrl ∧ v.getLsbD 0 = true
    · obtain ⟨rfl, hv⟩ := hreset
      have he : regWrite .ctrl v u = softReset u := writeCtrl_of_bit0 hv u
      rw [he]
      exact .inr ⟨rfl, rfl, rfl, rfl, _, rest, rfl, .inr ⟨v, rfl, hv⟩⟩
    · exact .inl (keepsFault_regWrite hreset u)
  | refuse _ => exact .inl ⟨rfl, rfl, rfl, rfl, rfl, rfl⟩
  | illegal hidle _ => exact absurd hidle hnot_idle
  | issueFault hidle _ => exact absurd hidle hnot_idle
  | launch hidle _ => exact absurd hidle hnot_idle
  | writeBuf _ _ _ => exact .inl ⟨rfl, rfl, rfl, rfl, rfl, rfl⟩
  | hardwareReset => exact .inr ⟨rfl, rfl, rfl, rfl, _, _, rfl, .inl rfl⟩
  | pixel hbusy _ _ _ => exact absurd hbusy hnot_busy
  | nmsOob hbusy _ _ => exact absurd hbusy hnot_busy

/-- Settles O27: by the moves. -/
theorem faultIsSticky : Obligations.FaultIsSticky := by
  intro s t hst hstep
  obtain ⟨u, hu, m⟩ := coreMove_of_step hstep
  have k := hu.keepsFault
  rcases keepsFault_or_reset_of_coreMove m (k.st.trans hst) with kept | reset
  · exact .inl ⟨kept.st.trans (k.st.trans hst), kept.fcode.trans k.fcode, kept.finfo.trans k.finfo,
      kept.idx.trans k.idx, kept.snap.trans k.snap, kept.cmd.trans k.cmd⟩
  · exact .inr reset

/-! ## Entering FAULTED -/

/-- A move that takes a fault is fault entry and nothing else: after the accepted write of CMD at an issue, in NMS with
IDX (R216, R261 to R264, R267). -/
theorem raise_of_coreMove {u t : State} {a : Agent} {script : List Stmt} (m : CoreMove u a script t)
    (hu : u.st ≠ .faulted) (ht : t.st = .faulted) :
    (u.st = .idle ∧ ∃ w f info, f.code.toNat ≤ 4 ∧ t = raise f info (acceptCommand w u)) ∨
    (u.st = .busy ∧ t = raise .nmsOob u.idx u) := by
  have hchanged : t.st ≠ u.st := fun h => hu (h.symm.trans ht)
  have hnot_idle : t.st ≠ .idle := by simp [ht]
  cases m with
  | quiet same => exact absurd same.keepsProgress.st hchanged
  | @writeReg r v _ _ =>
    rcases regWrite_cases r v u with ⟨_, _, he⟩ | k
    · exact absurd (by rw [he, softReset_st]) hnot_idle
    · exact absurd k.st hchanged
  | refuse _ => exact absurd rfl hchanged
  | illegal hidle _ => exact .inl ⟨hidle, _, .illCmd, _, by decide, rfl⟩
  | issueFault hidle hcheck => exact .inl ⟨hidle, _, _, _, (issueCheck_code hcheck).2, rfl⟩
  | launch _ _ => cases ht
  | writeBuf _ _ _ => exact absurd rfl hchanged
  | hardwareReset => exact absurd rfl hnot_idle
  | pixel hbusy _ _ _ => exact absurd ht (commitPixel_not_faulted hbusy _)
  | nmsOob hbusy _ _ => exact .inr ⟨hbusy, rfl⟩

/-- Settles O28: the host's own fields apart, the step is one of the two fault entries. -/
theorem faultsArePrecise : Obligations.FaultsArePrecise := by
  intro s t hst hstep ht
  obtain ⟨u, ⟨script, sched, noted, rfl⟩, m⟩ := coreMove_of_step hstep
  rcases raise_of_coreMove m hst ht with ⟨hidle, w, f, info, hcode, rfl⟩ | ⟨hbusy, rfl⟩
  · have hnot_busy : s.st ≠ .busy := by simp [show s.st = .idle from hidle]
    exact ⟨fun _ => rfl, rfl, rfl, rfl, rfl, rfl, rfl, rfl, rfl, rfl, rfl, rfl, rfl,
      fun hbusy => absurd hbusy hnot_busy, fun _ => ⟨rfl, f.code_legal.1, hcode⟩⟩
  · have hnot_idle : s.st ≠ .idle := by simp [show s.st = .busy from hbusy]
    exact ⟨fun _ => rfl, rfl, rfl, rfl, rfl, rfl, rfl, rfl, rfl, rfl, rfl, rfl, rfl,
      fun _ => ⟨rfl, rfl, rfl, rfl⟩, fun hidle => absurd hidle hnot_idle⟩

end Sys2Proof.Machine

/-! CERTIFICATES. The step by the command it runs (R272, R273), and the register block's table of writes and reads
(R274, R275). -/

namespace Sys2Proof.Machine

/-! ## The command a step runs -/

/-- The engine's turn while BUSY is a step of the latched command (R273). -/
theorem step_of_engineTurn {s : State} {i : Instr} (ha : nextAgent s = .engine) (hbusy : s.st = .busy)
    (hl : latched s = .command i) : step s = exec i (popTurn s) := by
  have hl' : latched (popTurn s) = .command i := (latched_congr (popTurn_snap s)).trans hl
  rw [step, agentStep, ha]
  simp only [engineTurn, popTurn_st, hbusy, hl']

/-- Settles O3: the host's half by its turn, the engine's by its own. -/
theorem stepRunsTheDecodedCommand : Obligations.StepRunsTheDecodedCommand := by
  constructor
  · intro s w rest i ha hs hidle hd
    refine ⟨rfl, ?_⟩
    rw [step_of_hostTurn ha hs, runStmt, hostWriteReg_cmd]
    exact writeCmd_idle hidle hd
  · intro s i ha hbusy hl
    exact step_of_engineTurn ha hbusy hl

/-! ## Writes -/

/-- W1C: a one clears, a zero keeps (R24). -/
theorem writeStatus_eq_ite (v : Word) (s : State) : writeStatus v s = { s with
    done := if v.getLsbD 1 then false else s.done, werr := if v.getLsbD 3 then false else s.werr } := by
  have hw1c (bit one : Bool) : (bit && !one) = if one then false else bit := by cases one <;> simp
  rw [writeStatus, hw1c, hw1c]

/-- Settles O35: each named offset by its register, the mode deciding at CMD alone; the rest are reserved. -/
theorem registerWriteTable : Obligations.RegisterWriteTable := by
  intro s v
  have hwrite (r : Reg) (hr : r ≠ .cmd) : hostWriteReg 32 (regOffset r) v s = .next (regWrite r v s) :=
    hostWriteReg_regOffset hr v s
  refine ⟨hwrite .id (by decide), hwrite .finfo (by decide), fun hv => ?_, fun hv => ?_, ?_, fun i hidle hd => ?_,
    fun why hidle hd => ?_, fun hne => ?_, hwrite .width (by decide), hwrite .height (by decide),
    hwrite .src0 (by decide), hwrite .src1 (by decide), hwrite .src2 (by decide), hwrite .dst (by decide),
    fun n => hwrite (.kreg n) (by simp), fun o ha ho => hostWriteReg_reserved v s ha ho⟩
  · exact (hwrite .ctrl (by decide)).trans (congrArg _ (writeCtrl_of_bit0 hv s))
  · exact (hwrite .ctrl (by decide)).trans (congrArg _ (writeCtrl_of_not_bit0 hv s))
  · exact (hwrite .status (by decide)).trans (congrArg _ (writeStatus_eq_ite v s))
  · exact (hostWriteReg_cmd v s).trans (writeCmd_idle hidle hd)
  · exact (hostWriteReg_cmd v s).trans (writeCmd_illegal hidle hd)
  · exact (hostWriteReg_cmd v s).trans (writeCmd_refused hne)

/-! ## Reads -/

theorem ctrlWord_bit_reset (s : State) : (ctrlWord s).getLsbD 0 = false := by
  simp only [ctrlWord, BitVec.getLsbD_append]
  simp

theorem ctrlWord_reserved_high (s : State) : (ctrlWord s).extractLsb 31 3 = 0 := by
  simp (disch := decide) only [ctrlWord, BitVec.extractLsb, BitVec.extractLsb'_append_eq_of_le]
  exact BitVec.extractLsb'_eq_self

/-- Settles O38: a read at a register's offset notes its word, at a reserved one 0; CTRL bit by bit. -/
theorem registerReadHasNoSideEffect : Obligations.RegisterReadHasNoSideEffect := by
  intro s
  have hread (r : Reg) : hostReadReg 32 (regOffset r) s = { s with noted := .value (regRead r s) :: s.noted } :=
    hostReadReg_regOffset r s
  exact ⟨hread .id, hread .ctrl, hread .status, hread .cmd, hread .width, hread .height, hread .src0, hread .src1,
    hread .src2, hread .dst, hread .finfo, fun n => hread (.kreg n), fun o ha ho => hostReadReg_reserved s ha ho,
    hread, ctrlWord_bit_reset s, ctrlWord_bit_ieDone s, ctrlWord_bit_ieFault s, ctrlWord_reserved_high s⟩

end Sys2Proof.Machine

/-! CERTIFICATES. The two resets (R301, R302), the waiting machine (R312), and the end of every command (R311). -/

namespace Sys2Proof.Machine

/-! ## The resets -/

/-- After a soft reset the registers read as they do in the reset state (R39, R302). -/
theorem regRead_softReset (r : Reg) (s : State) : regRead r (softReset s) = regRead r State.reset := by
  cases r <;> rfl

/-- No register reads BUF, by which alone the two resets differ (R301, R302). -/
theorem regRead_hardwareReset (r : Reg) (s : State) : regRead r (hardwareReset s) = regRead r State.reset := by
  cases r <;> rfl

/-- Settles O30: the host's turn is the reset, its registers those of the reset state, and both enables are clear. -/
theorem hardwareResetClearsEverything : Obligations.HardwareResetClearsEverything := by
  intro s rest ha hs
  refine ⟨_, step_of_hostTurn ha hs, rfl, fun _ => rfl, fun r hid => ?_, rfl, irq_of_disabled rfl rfl⟩
  rw [regRead_hardwareReset, regRead_reset hid]

/-- Settles O31: with bit 0 set the write of CTRL is the soft reset, which does not name BUF. -/
theorem softResetKeepsBuf : Obligations.SoftResetKeepsBuf := by
  intro s v hv
  have hwrite : hostWriteReg 32 0x04 v s = .next (softReset s) :=
    (hostWriteReg_regOffset (r := .ctrl) (by decide) v s).trans (congrArg _ (writeCtrl_of_bit0 hv s))
  refine ⟨_, hwrite, rfl, fun _ => rfl, fun r hid => ?_, rfl, irq_of_disabled rfl rfl⟩
  rw [regRead_softReset, regRead_reset hid]

/-! ## Waiting -/

theorem popTurn_of_sched_nil {s : State} (h : s.sched = []) : popTurn s = s := by
  rw [popTurn, h, List.tail_nil, ← h]

/-- Settles O45: there is no turn to take off, and neither agent has anything to do. -/
theorem idleMachineWaits : Obligations.IdleMachineWaits := by
  intro s hst hscript hsched
  rcases step_cases s with ⟨_, he⟩ | ⟨_, he⟩
  · rw [he, popTurn_of_sched_nil hsched, hostTurn_nil hscript]
  · rw [he, popTurn_of_sched_nil hsched]
    rcases engineTurn_cases s with ⟨_, hnext⟩ | ⟨_, hbusy, _⟩ | ⟨hbusy, _⟩
    · exact hnext
    · exact absurd hbusy hst
    · exact absurd hbusy hst

/-! ## A pixel whose source words have values -/

/-- The word of pixel IDX of a used source. -/
theorem SourcesDefined.pixel_value {i : Instr} {s : State} (hd : SourcesDefined i s) (h : RunningCommand i s) {k : Src}
    (hk : k ∈ usedSources i) : ∃ v, readWord s.buf ((latchedSrc s.snap k).toNat + s.idx.toNat) = some v :=
  hd k hk s.idx.toNat h.index_below

/-- The neighbours of a convolution's taps are words of SRC0, so no read stops it (R164). -/
theorem RunningCommand.convPixel_word {i : Instr} {s : State} (h : RunningCommand i s) (hd : SourcesDefined i s)
    (h0 : .src0 ∈ usedSources i) : ∃ v, convPixel s = .word v := by
  rcases h.convPixel_cases h0 with ⟨a, ha, hr, _⟩ | ⟨_, hword⟩
  · obtain ⟨tap, htap, rfl⟩ := List.mem_map.mp ha
    obtain ⟨v, hv⟩ := hd .src0 h0 (tapIndex s tap) (h.tapIndex_below htap)
    cases hr.symm.trans hv
  · exact hword

theorem RunningCommand.renormPixel_word {s : State} (h : RunningCommand .renorm s) (hd : SourcesDefined .renorm s) :
    ∃ v, renormPixel s = .word v := by
  obtain ⟨v, hv⟩ := hd.pixel_value h (k := .src0) (by decide)
  exact ⟨_, h.renormPixel_ok hv⟩

theorem RunningCommand.pairPixel_word {i : Instr} {s : State} (h : RunningCommand i s) (hd : SourcesDefined i s)
    (h0 : .src0 ∈ usedSources i) (h1 : .src1 ∈ usedSources i) (f : Word → Word → Word) :
    ∃ v, pairPixel f s = .word v := by
  obtain ⟨sx, hsx⟩ := hd.pixel_value h h0
  obtain ⟨sy, hsy⟩ := hd.pixel_value h h1
  exact ⟨_, h.pairPixel_ok h0 h1 hsx hsy f⟩

/-- A comparison of NMS whose neighbours are both in the image gives a word (R216, R217). -/
theorem RunningCommand.nmsCompare_word_or_oob {s : State} (h : RunningCommand .nms s) (hd : SourcesDefined .nms s)
    (js : Int × Int) : (∃ v, nmsCompare s js = .word v) ∨ nmsCompare s js = .nmsOob := by
  rcases nmsCompare_cases s js with hoob | ⟨ja, jb, rfl, ha, hb⟩
  · exact .inr hoob
  · have h2 : .src2 ∈ usedSources .nms := by decide
    obtain ⟨m, hm⟩ := hd.pixel_value h h2
    obtain ⟨ma, hma⟩ := hd .src2 h2 ja ha
    obtain ⟨mb, hmb⟩ := hd .src2 h2 jb hb
    rw [nmsCompare_inside ha hb]
    exact .inl ⟨_, h.nmsKeep_ok ha hb hm hma hmb⟩

theorem RunningCommand.nmsPixel_word_or_oob {s : State} (h : RunningCommand .nms s) (hd : SourcesDefined .nms s) :
    (∃ v, nmsPixel s = .word v) ∨ nmsPixel s = .nmsOob := by
  cases hb : isBorderRow s.snap.w.toNat s.snap.n.toNat s.idx.toNat with
  | true =>
    obtain ⟨m, hm⟩ := hd.pixel_value h (k := .src2) (by decide)
    exact .inl ⟨m, h.nmsPixel_border_ok hb hm⟩
  | false =>
    obtain ⟨sx, hsx⟩ := hd.pixel_value h (k := .src0) (by decide)
    obtain ⟨sy, hsy⟩ := hd.pixel_value h (k := .src1) (by decide)
    rw [h.nmsPixel_inner_ok hb hsx hsy]
    exact h.nmsCompare_word_or_oob hd _

/-- With its sources defined a running command's pixel does not stop the model: it gives a word or is F_NMS_OOB
(R74, R265). -/
theorem RunningCommand.pixelFn_word_or_oob {i : Instr} {s : State} (h : RunningCommand i s) (hd : SourcesDefined i s) :
    (∃ v, pixelFn i s = .word v) ∨ pixelFn i s = .nmsOob := by
  cases i with
  | convMean => exact .inl (h.convPixel_word hd (by decide))
  | convSx => exact .inl (h.convPixel_word hd (by decide))
  | convSy => exact .inl (h.convPixel_word hd (by decide))
  | convUsr => exact .inl (h.convPixel_word hd (by decide))
  | renorm => exact .inl (h.renormPixel_word hd)
  | magf => exact .inl (h.pairPixel_word hd (by decide) (by decide) magfWord)
  | magx => exact .inl (h.pairPixel_word hd (by decide) (by decide) magxWord)
  | nms => exact h.nmsPixel_word_or_oob hd

/-! ## The end of a command -/

/-- A stored pixel leaves no source word without a value. -/
theorem SourcesDefined.commitPixel {i : Instr} {s : State} (hd : SourcesDefined i s) (v : Word) :
    SourcesDefined i (commitPixel v s) := by
  intro k hk j hj
  exact Option.isSome_iff_exists.mp
    (readWord_writeWord_isSome _ v (Option.isSome_iff_exists.mpr (hd k hk j hj)))

/-- With its sources defined and no turn scheduled, a running command's step stores its pixel or is NMS's fault entry
(R216, R273). -/
theorem RunningCommand.step_of_sourcesDefined {i : Instr} {s : State} (h : RunningCommand i s) (hsched : s.sched = [])
    (hd : SourcesDefined i s) :
    (∃ v, step s = .next (Machine.commitPixel v s)) ∨
    (i = .nms ∧ step s = .next (Machine.raise .nmsOob s.idx s)) := by
  rw [h.step_eq_exec hsched]
  rcases h.pixelFn_word_or_oob hd with ⟨v, hv⟩ | hoob
  · exact .inl ⟨v, by rw [h.exec_of_word hv, h.commitPixel_eq]⟩
  · refine .inr ⟨pixelFn_nmsOob hoob, ?_⟩
    rw [exec_busy h.busy h.latched_eq, engineStep, hoob]

/-- Settles O21: by induction on the pixels left; each step ends the command or stores a pixel and leaves one less. -/
theorem everyCommandEnds : Obligations.EveryCommandEnds := by
  intro i s h hsched hd
  have hbelow := h.index_below
  induction hleft : s.snap.n.toNat - s.idx.toNat generalizing s with
  | zero => omega
  | succ left ih =>
    rcases h.step_of_sourcesDefined hsched hd with ⟨v, hstep⟩ | ⟨hi, hstep⟩
    · by_cases hlast : s.idx + 1 = s.snap.n
      · obtain ⟨hidle, hdone⟩ := commitPixel_last hlast v
        have hcount := h.last_iff.mp hlast
        exact ⟨1, _, by omega, run_succ_of_step 0 hstep, .inl ⟨hidle, hdone, hlast, by omega⟩⟩
      · have hnext := h.commitPixel v hlast
        have hfewer : (commitPixel v s).snap.n.toNat - (commitPixel v s).idx.toNat = left := by
          rw [commitPixel_snap, commitPixel_idx, h.index_succ]
          omega
        obtain ⟨k, t, hk, hrun, hend⟩ := ih _ hnext hsched (hd.commitPixel v) hnext.index_below hfewer
        refine ⟨k + 1, t, by omega, (run_succ_of_step k hstep).trans hrun, hend.imp_left ?_⟩
        rintro ⟨hidle, hdone, hidx, hall⟩
        exact ⟨hidle, hdone, hidx, by omega⟩
    · exact ⟨1, _, by omega, run_succ_of_step 0 hstep, .inr ⟨rfl, rfl, hi, rfl⟩⟩

end Sys2Proof.Machine
